-- ==== Sys2Proof/Word.lean ====
section
/-!
DEFINITION. The word of Kans CORE (spec/00_scope.md R8) and the frame of words (spec/30_encoding.md R70).
-/

namespace Sys2Proof

/-- A word: a 32-bit unsigned bit vector (R8). -/
abbrev Word := BitVec 32

/-- A command frame or a response frame: a finite sequence of words (R70). -/
abbrev Frame := List Word

/-- `u32(v)` of R8: the integer value of a word. -/
abbrev u32 (v : Word) : Nat := v.toNat

/-- `w32(i)` of R8: the word whose value is `i` mod 2^32. -/
abbrev w32 (i : Int) : Word := BitVec.ofInt 32 i

end Sys2Proof
end

