-- ==== Sys2Proof/Machine/Arith.lean ====
section
/-!
DEFINITION. The word operators of spec/00_scope.md R9.
-/

namespace Sys2Proof.Machine

/-- `add32(a, b)` (R9): addition with wrap-around. -/
def add32 (a b : Word) : Word := a + b

/-- `rotl32(v, n)` (R9): the bits moved up by n mod 32, joined by XOR with those that leave at bit 31. -/
def rotl32 (v : Word) (n : Nat) : Word := (v <<< (n % 32)) ^^^ (v >>> (32 - n % 32))

/-- `shl32(v, n)` (R9): logical left shift. -/
def shl32 (v : Word) (n : Nat) : Word := v <<< n

/-- `shr32(v, n)` (R9): logical right shift. -/
def shr32 (v : Word) (n : Nat) : Word := v >>> n

end Sys2Proof.Machine
end

