-- ==== Sys2Proof/Config.lean ====
section
/-!
DEFINITION. The configuration parameters of spec/00_scope.md R7: what an implementation fixes from one reset to the
next. The fixed parameters of R7 (W, B, NR_SPH, SEED_RATE, SEED_WORDS_K) stand in Machine/Constants.lean, with the
default of each parameter.
-/

namespace Sys2Proof

/-- The parameter `SC_COUNTER_TOP` of R7 and R175: the lowest-numbered core position the counter carry reaches. The
spec names two values, 12 (its choice, C1 and D17) and 4 (the named alternative). -/
inductive CounterTop where
  | pos12
  | pos4
  deriving DecidableEq, Repr

/-- The parameter `BUS_BYTE_ORDER` (R7, R54): OPEN, and nothing in the spec depends on it. -/
inductive ByteOrder where
  | littleEndian
  | bigEndian
  deriving DecidableEq, Repr

/-- The configuration parameters (R7). The block takes them at reset and they do not change until the next reset
(R280). -/
structure Config where
  /-- `SC_ROUNDS` of each SCG unit, in the order of the unit numbers (R176: a parameter of each unit). -/
  scRounds : List Nat
  /-- `SC_CONST[0..3]` (R170). -/
  scConst : Vector Word 4
  /-- `SC_COUNTER_TOP` (R175). -/
  scCounterTop : CounterTop
  /-- `NUM_TR` (R23). -/
  numTr : Nat
  /-- `NUM_LF` (R23). -/
  numLf : Nat
  /-- `MAX_FRAME_WORDS` (R241, D30): `none` is the unbounded port. -/
  maxFrameWords : Option Nat
  /-- `BUS_BYTE_ORDER` (R54): OPEN; `none` where the platform gives none. No rule reads it. -/
  busByteOrder : Option ByteOrder
  /-- `CMD_PORT_BASE` (R59): OPEN; `none` where the port is not memory-mapped. No rule reads it. -/
  cmdPortBase : Option Nat
  deriving DecidableEq, Repr

/-- `NUM_SC` (R23): one entry of `scRounds` for each SCG unit. -/
def Config.numSc (c : Config) : Nat := c.scRounds.length

/-- `SC_ROUNDS` of SCG unit `i`. (12 past the last unit, where no unit is: log 15.) -/
def Config.roundsOf (c : Config) (i : Nat) : Nat := c.scRounds.getD i 12

/-- A legal number of rounds (R176): a multiple of 4 that is at least 4. -/
def Config.legalRounds (r : Nat) : Bool := 4 ≤ r && r % 4 == 0

/-- A legal number of units of one kind (R7, D12): 1 to 256. -/
def Config.legalCount (n : Nat) : Bool := 1 ≤ n && n ≤ 256

/-- The configurations the block accepts at reset: R176 and D13 for the rounds; that a number of units outside R7's range
is not accepted is DEDUCED (log 5). -/
def Config.legal (c : Config) : Bool :=
  legalCount c.numSc && legalCount c.numTr && legalCount c.numLf && c.scRounds.all legalRounds

end Sys2Proof
end

