-- ==== Sys2Proof/Syntax.lean ====
section
/-!
DEFINITION. The sixteen commands of spec/opcode_table.json (spec/30_encoding.md R82), the generator kinds (R72), the
frame formats (R76) and the status codes (spec/60_exceptions.md R240).
-/

namespace Sys2Proof

/-- The generator kinds of R72: SCG (`SC`), TRG (`TR`) and LFG (`LF`). -/
inductive Kind where
  | sc
  | tr
  | lf
  deriving DecidableEq, Repr

/-- The operation codes of R72 and R82: HASH, and five classes for each kind. -/
inductive Opcode where
  | hash
  | seed (k : Kind)
  | next (k : Kind)
  | rdbl (k : Kind)
  | rrange (k : Kind)
  | rindex (k : Kind)
  deriving DecidableEq, Repr

/-- The frame formats of R76. -/
inductive Format where
  | FH
  | FS
  | FN
  | FR
  | FI
  deriving DecidableEq, Repr

/-- The status names of R240, in the order of their codes. -/
inductive Status where
  | ok
  | frameError
  | illegalOpcode
  | reservedField
  | badInstance
  | invalidRate
  | invalidCount
  | invalidRange
  | rangeTooWide
  | notSeeded
  deriving DecidableEq, Repr

/-- One command (R82). `inst` is the INST field (R73), `rate` the RATE field (R74), `outCount` the output word count
`M`; the input word count `L` is the length of the list (R76). Range operands are the signed 64-bit values of R79, as
bit vectors. -/
inductive Instr where
  | hash (rate : BitVec 5) (outCount : Word) (input : List Word)
  | seedSc (inst : BitVec 8) (seed : List Word)
  | seedTr (inst : BitVec 8) (seed : List Word)
  | seedLf (inst : BitVec 8) (seed : List Word)
  | nextSc (inst : BitVec 8)
  | nextTr (inst : BitVec 8)
  | nextLf (inst : BitVec 8)
  | rdblSc (inst : BitVec 8)
  | rdblTr (inst : BitVec 8)
  | rdblLf (inst : BitVec 8)
  | rrangeSc (inst : BitVec 8) (lower upper : BitVec 64)
  | rrangeTr (inst : BitVec 8) (lower upper : BitVec 64)
  | rrangeLf (inst : BitVec 8) (lower upper : BitVec 64)
  | rindexSc (inst : BitVec 8) (count : BitVec 64)
  | rindexTr (inst : BitVec 8) (count : BitVec 64)
  | rindexLf (inst : BitVec 8) (count : BitVec 64)
  deriving DecidableEq, Repr

end Sys2Proof
end

