-- ==== Sys2Proof/Machine/Constants.lean ====
section
/-!
DEFINITION. The read-only tables of spec/10_state.md R33, the fixed parameters of spec/00_scope.md R7 and the default
configuration.
-/

namespace Sys2Proof.Machine

/-- The interface version, the spec's own label (R3, D1). -/
def interfaceVersion : Nat := 1

/-- `SEED_RATE` (R7, R131): (800 - 256) / 32. -/
def seedRate : Nat := 17

/-- `SEED_WORDS_SC` (R7, R130, D18). -/
abbrev seedWordsSc : Nat := 10

/-- `SEED_WORDS_TR` (R7, R130). -/
abbrev seedWordsTr : Nat := 32

/-- `SEED_WORDS_LF` (R7, R130). -/
abbrev seedWordsLf : Nat := 256

/-- The rotation amounts `ROT[i]` (R107), by word index i = x + 5y. -/
def rotAmounts : Vector Nat 25 :=
  #v[0, 1, 30, 28, 27,
     4, 12, 6, 23, 20,
     3, 10, 11, 25, 7,
     9, 13, 15, 21, 8,
     18, 2, 29, 24, 14]

/-- The round constants `RC[t]`, t = 0 to 21 (R110). -/
def roundConstants : List Word :=
  [0x00000001, 0x00008082, 0x0000808A, 0x80008000, 0x0000808B, 0x80000001, 0x80008081, 0x00008009,
   0x0000008A, 0x00000088, 0x80008009, 0x8000000A, 0x8000808B, 0x0000008B, 0x00008089, 0x00008003,
   0x00008002, 0x00000080, 0x0000800A, 0x8000000A, 0x80008081, 0x00008080]

/-- The default of `SC_CONST` (R170, D14; UNVERIFIED by the spec's source, log 14). -/
def scConstDefault : Vector Word 4 := #v[0x61707865, 0x3320646E, 0x79622D32, 0x6B206574]

/-- The defaults of R7: one unit of each kind, 12 rounds, the counter top at 12, no frame limit (D30 allows it, log 7),
the two OPEN platform parameters not given (log 10). -/
def defaultConfig : Config where
  scRounds := [12]
  scConst := scConstDefault
  scCounterTop := .pos12
  numTr := 1
  numLf := 1
  maxFrameWords := none
  busByteOrder := none
  cmdPortBase := none

end Sys2Proof.Machine
end

