-- ==== Sys2Proof/Machine/State.lean ====
section
/-!
DEFINITION. The state of Kans CORE (spec/10_state.md, spec/70_reset_and_hazards.md), the host side that drives it, the
reasons a step can stop, and the state right after reset (R38, R280). The block has no memory, no program counter and no
registers beyond these (R21, R50).
-/

namespace Sys2Proof.Machine

/-- One SCG unit (R24). -/
structure Scg where
  /-- `core[0..15]`: constants 0..3, key 4..11, nonce 12..13, counter 14..15 (R25). -/
  core : Vector Word 16
  /-- `out[0..15]`: the block of R174 for the current `core` (R26). -/
  out : Vector Word 16
  /-- `remaining`, 0 to 16: how many words of `out` are not yet consumed (R27). -/
  remaining : Fin 17
  /-- `seeded` (R22). -/
  seeded : Bool
  deriving DecidableEq, Repr

/-- One TRG unit (R28). -/
structure Trg where
  v : Vector Word 32
  idx : Fin 32
  seeded : Bool
  deriving DecidableEq, Repr

/-- One LFG unit (R29). -/
structure Lfg where
  v : Vector Word 256
  idx : Fin 256
  seeded : Bool
  deriving DecidableEq, Repr

/-- What RS holds while an RRANGE or RINDEX command is in its draw loop (R31, R141): the unit drawn from and the
integers `lower`, `n` and `bound`. -/
structure DrawLoop where
  kind : Kind
  inst : Nat
  lower : Int
  n : Nat
  bound : Nat
  deriving DecidableEq, Repr

/-- The sequencer's phase (R32, R283). `busy f` and `drawing d` are both BUSY: `busy f` before the checks of R251 are
run on the accepted frame, `drawing d` between two micro-steps of a draw loop (R285). `done r` is DONE: the response
frame `r` waits for the host. -/
inductive Phase where
  | idle
  | busy (f : Frame)
  | drawing (d : DrawLoop)
  | done (r : Frame)
  deriving DecidableEq, Repr

/-- What the host may do (R290), and `wait`: it does nothing for one step. -/
inductive HostEvent where
  /-- Submit a command frame. -/
  | submit (f : Frame)
  /-- Read the response frame, whole. -/
  | read
  /-- Assert reset; the block takes these parameters (R280, R281). -/
  | reset (c : Config)
  /-- Do nothing for one step (the model's own, log 1). -/
  | wait
  deriving DecidableEq, Repr

/-- The host's side of the port, the model's own data and not the spec's (log 1): what the host will still do, in
order, and the response frames it has read, oldest first. -/
structure HostSide where
  script : List HostEvent
  received : List Frame
  deriving DecidableEq, Repr

/-- The whole machine: the parameters taken at the last reset (R7, R280), the three banks of generator units (R23), the
sequencer's phase (R32, R283), the frame the port holds (R284), and the host's side. -/
structure State where
  cfg : Config
  scg : List Scg
  trg : List Trg
  lfg : List Lfg
  phase : Phase
  port : Option Frame
  host : HostSide
  deriving DecidableEq, Repr

/-- Why a step can fault. The spec has no event that stops the block (R255); the one reason is the model's own. -/
inductive Fault where
  /-- Raised by a draw of a unit that is not in its bank. No run reaches it: the unit's number is checked before the
  draw loop starts (R251) and no step shortens a bank. Safe (log 17). -/
  | missingUnit (k : Kind) (inst : Nat)
  deriving DecidableEq, Repr

/-- Why a step can be refused. -/
inductive Refusal where
  /-- Raised by an arm of `exec` that has no meaning yet (none is left). Safe. -/
  | notModelled (mnemonic : String)
  /-- Raised by a reset that brings an illegal configuration: R176 and D13 refuse an illegal SC_ROUNDS at
  configuration; for an illegal number of units the refusal is DEDUCED. Safe (log 5). -/
  | illegalConfig (c : Config)
  deriving DecidableEq, Repr

/-- An SCG unit at reset (R38): the constants, and zero where the spec leaves the value unspecified (DESIGN CHOICE,
log 6). -/
def scgAtReset (c : Config) : Scg where
  core := Vector.ofFn fun i : Fin 16 => if h : i.val < 4 then c.scConst[i.val] else 0
  out := Vector.replicate 16 0
  remaining := 0
  seeded := false

/-- A TRG unit at reset (R38; zero is DESIGN CHOICE, log 6). -/
def trgAtReset : Trg where
  v := Vector.replicate 32 0
  idx := 0
  seeded := false

/-- An LFG unit at reset (R38; zero is DESIGN CHOICE, log 6). -/
def lfgAtReset : Lfg where
  v := Vector.replicate 256 0
  idx := 0
  seeded := false

/-- The block right after a reset that brings the parameters `c` (R38, R280). The port holds no frame (DESIGN CHOICE,
log 3); the host's side is not the block's and is given. -/
def State.resetWith (c : Config) (h : HostSide) : State where
  cfg := c
  scg := List.replicate c.numSc (scgAtReset c)
  trg := List.replicate c.numTr trgAtReset
  lfg := List.replicate c.numLf lfgAtReset
  phase := .idle
  port := none
  host := h

/-- The machine right after reset with the default parameters of R7 and a host that does nothing. -/
def State.reset : State := State.resetWith defaultConfig ⟨[], []⟩

end Sys2Proof.Machine
end

