-- ==== Sys2Proof/Machine/LaggedFib.lean ====
section
/-!
DEFINITION. The Lagged-Fibonacci Generator (spec/44_lagged_fib.md): state initialisation and word production of one LFG
unit. Index arithmetic is mod 256 (R221), the arithmetic of `Fin 256`.
-/

namespace Sys2Proof.Machine

/-- `InitState_LF(g, s)` (R220), and `seeded <- 1` (R131). -/
def initStateLf (s : Vector Word 256) : Lfg where
  v := s.set 0 (s[0] ||| 0x00000001#32)
  idx := 0
  seeded := true

/-- The four-tap sum of R226. -/
def lfSum (v : Vector Word 256) (i : Fin 256) : Word :=
  add32 (add32 (add32 v[i] v[i + 201]) v[i + 137]) v[i + 77]

/-- `Produce_LF(g)` (R226). -/
def produceLf (g : Lfg) : Word × Lfg :=
  let s := lfSum g.v g.idx
  (s, { g with v := g.v.set g.idx s, idx := g.idx + 1 })

end Sys2Proof.Machine
end

