-- ==== Sys2Proof/Machine/Sponge.lean ====
section
/-!
DEFINITION. The Sponge Permutation Hash (spec/40_sponge.md): the permutation P800, padding, absorb, squeeze and
SpongeHash. The sponge state exists only inside these functions (R30).
-/

namespace Sys2Proof.Machine

/-- The 25 words of the sponge state, word i at column i mod 5 and row i / 5 (R105). -/
abbrev Lanes := Vector Word 25

/-! ## The permutation (R106 to R111) -/

/-- `C[x]` of theta: the XOR of column x (R106). -/
def columnParity (a : Lanes) (x : Fin 5) : Word :=
  a[x.val] ^^^ a[x.val + 5] ^^^ a[x.val + 10] ^^^ a[x.val + 15] ^^^ a[x.val + 20]

/-- Theta (R106). The column index arithmetic is mod 5. -/
def theta (a : Lanes) : Lanes :=
  let parity : Vector Word 5 := Vector.ofFn (columnParity a)
  let mix : Vector Word 5 := Vector.ofFn fun x : Fin 5 => parity[x + 4] ^^^ rotl32 parity[x + 1] 1
  Vector.ofFn fun i : Fin 25 => a[i] ^^^ mix[i.val % 5]

/-- Where the word that rho and pi put at index j comes from: R108 sends (x, y) to (y, 2x + 3y), so the word at (X, Y)
comes from column X + 3Y and row X, mod 5. -/
def rhopiSource (j : Fin 25) : Fin 25 := ⟨(j.val % 5 + 3 * (j.val / 5)) % 5 + 5 * (j.val % 5), by omega⟩

/-- Rho and pi (R107, R108). -/
def rhopi (a : Lanes) : Lanes :=
  Vector.ofFn fun j : Fin 25 => rotl32 a[rhopiSource j] rotAmounts[rhopiSource j]

/-- Chi (R109), for the word at (i mod 5, i / 5). -/
def chi (b : Lanes) : Lanes :=
  Vector.ofFn fun i : Fin 25 =>
    b[i] ^^^ (~~~ b[(i.val % 5 + 1) % 5 + 5 * (i.val / 5)] &&& b[(i.val % 5 + 2) % 5 + 5 * (i.val / 5)])

/-- Iota with the round constant `rc` (R110). -/
def iota (a : Lanes) (rc : Word) : Lanes := a.set 0 (a[0] ^^^ rc)

/-- One round (R111): theta, rho and pi, chi, iota. -/
def spongeRound (a : Lanes) (rc : Word) : Lanes := iota (chi (rhopi (theta a))) rc

/-- The permutation P800 (R111): the rounds t = 0 to 21 in order. -/
def P800 (a : Lanes) : Lanes := roundConstants.foldl spongeRound a

/-! ## Padding, absorb, squeeze (R102 to R104) -/

/-- The padded length `req` of R102. -/
def paddedLength (len r : Nat) : Nat := (len / r + 1) * r

/-- Padding "10*1" at word granularity (R102). -/
def pad (input : List Word) (r : Nat) : List Word :=
  let req := paddedLength input.length r
  let buf := input ++ List.replicate (req - input.length) 0
  (buf.set input.length 0x00000001#32).modify (req - 1) fun w => w ^^^ 0x80000000#32

/-- The sponge state with its offset (R30). -/
structure Sponge where
  s : Lanes
  off : Fin 25
  deriving DecidableEq, Repr

/-- All words zero and the offset 0 (R112). -/
def spongeZero : Sponge := ⟨Vector.replicate 25 0, 0⟩

/-- `off <- off + 1; if off = r: S <- P800(S); off <- 0` (R103, R104), for 1 ≤ r ≤ 25. -/
def advance (r : Nat) (p : Sponge) : Sponge :=
  if p.off.val + 1 = r then ⟨P800 p.s, 0⟩ else ⟨p.s, p.off + 1⟩

/-- One word of the absorb loop (R103). -/
def absorbWord (r : Nat) (p : Sponge) (w : Word) : Sponge :=
  advance r ⟨p.s.set p.off (p.s[p.off] ^^^ w), p.off⟩

/-- Absorb (R103). -/
def absorb (buf : List Word) (r : Nat) : Sponge := buf.foldl (absorbWord r) spongeZero

/-- Squeeze (R104): the next `m` words. -/
def squeeze (r : Nat) : Nat → Sponge → List Word
  | 0, _ => []
  | m + 1, p => p.s[p.off] :: squeeze r m (advance r p)

/-- `SpongeHash(input, M, r)` (R100). Squeezing starts at offset 0 (R104). -/
def spongeHash (input : List Word) (m r : Nat) : List Word :=
  squeeze r m ⟨(absorb (pad input r) r).s, 0⟩

theorem squeeze_length (r m : Nat) (p : Sponge) : (squeeze r m p).length = m := by
  induction m generalizing p with
  | zero => rfl
  | succ m ih => simp [squeeze, ih]

theorem spongeHash_length (input : List Word) (m r : Nat) : (spongeHash input m r).length = m :=
  squeeze_length r m _

/-- `SpongeHash(w, m, 17)` as the array of words a state-initializer takes (R130, R131). -/
def seedVector (w : List Word) (m : Nat) : Vector Word m :=
  ⟨(spongeHash w m seedRate).toArray, by simp [spongeHash_length]⟩

end Sys2Proof.Machine
end

