-- ==== Sys2Proof/Machine/StreamCipher.lean ====
section
/-!
DEFINITION. The Stream-Cipher Generator (spec/42_stream_cipher.md): quarter-round, block function, counter increment,
state initialisation and word production of one SCG unit.
-/

namespace Sys2Proof.Machine

/-- The 16 words of an SCG array. -/
abbrev Block := Vector Word 16

/-- The quarter-round on the values of four positions (R172). -/
def quarterRoundWords (a b c d : Word) : Word × Word × Word × Word :=
  let a := add32 a b
  let d := rotl32 (d ^^^ a) 16
  let c := add32 c d
  let b := rotl32 (b ^^^ c) 12
  let a := add32 a b
  let d := rotl32 (d ^^^ a) 8
  let c := add32 c d
  let b := rotl32 (b ^^^ c) 7
  (a, b, c, d)

/-- `QR(x, a, b, c, d)` on distinct positions of a working array (R172). -/
def quarterRound (a b c d : Fin 16) (x : Block) : Block :=
  let q := quarterRoundWords x[a] x[b] x[c] x[d]
  (((x.set a q.1).set b q.2.1).set c q.2.2.1).set d q.2.2.2

/-- The column pass (R173). -/
def columnPass (x : Block) : Block :=
  quarterRound 3 7 11 15 (quarterRound 2 6 10 14 (quarterRound 1 5 9 13 (quarterRound 0 4 8 12 x)))

/-- The diagonal pass (R173). -/
def diagonalPass (x : Block) : Block :=
  quarterRound 3 4 9 14 (quarterRound 2 7 8 13 (quarterRound 1 6 11 12 (quarterRound 0 5 10 15 x)))

/-- `n` double rounds, each a column pass and then a diagonal pass (R173, R174). -/
def doubleRounds : Nat → Block → Block
  | 0, x => x
  | n + 1, x => doubleRounds n (diagonalPass (columnPass x))

/-- `SCBlock(core, R)` (R174). -/
def scBlock (rounds : Nat) (core : Block) : Block :=
  Vector.zipWith add32 (doubleRounds (rounds / 2) core) core

/-- The counter limbs, least significant first (R175): from `core[15]` down to `core[SC_COUNTER_TOP]`. -/
def counterLimbs : CounterTop → List (Fin 16)
  | .pos12 => [15, 14, 13, 12]
  | .pos4 => [15, 14, 13, 12, 11, 10, 9, 8, 7, 6, 5, 4]

/-- Add 1 to the first limb, and go on to the next while the limb became zero (R175). -/
def incrementLimbs : List (Fin 16) → Block → Block
  | [], core => core
  | i :: is, core =>
    let core' := core.set i (add32 core[i] 1)
    if core'[i] ≠ 0 then core' else incrementLimbs is core'

/-- `SCIncrement(core)` (R175). -/
def scIncrement (top : CounterTop) (core : Block) : Block := incrementLimbs (counterLimbs top) core

/-- The core that InitState_SC leaves (R171): the constants kept, the seed words in 4..13, the counter words zero. -/
def scSeedCore (core : Block) (s : Vector Word 10) : Block :=
  Vector.ofFn fun k : Fin 16 =>
    if k.val < 4 then core[k] else if h : k.val < 14 then s[k.val - 4] else 0

/-- `InitState_SC(g, s)` (R171), and `seeded <- 1` (R131). -/
def initStateSc (rounds : Nat) (g : Scg) (s : Vector Word 10) : Scg :=
  let core := scSeedCore g.core s
  { core := core, out := scBlock rounds core, remaining := 16, seeded := true }

/-- The refill of Produce_SC (R180): increment the counter, run the block function, 16 words remain. -/
def scRefill (top : CounterTop) (rounds : Nat) (g : Scg) : Scg :=
  let core := scIncrement top g.core
  { g with core := core, out := scBlock rounds core, remaining := 16 }

/-- The index `16 - remaining` of the next word (R180, D16). It is below 16 because `remaining` is at least 1 where it
is used; the last `% 16` only keeps the index in range (log 15). -/
def scNextIndex (remaining : Fin 17) : Fin 16 := ⟨(16 - remaining.val) % 16, by omega⟩

/-- The word at the next index, and `remaining` one less (R180). -/
def scTake (g : Scg) : Word × Scg :=
  (g.out[scNextIndex g.remaining], { g with remaining := ⟨g.remaining.val - 1, by omega⟩ })

/-- `Produce_SC(g)` (R180). -/
def produceSc (top : CounterTop) (rounds : Nat) (g : Scg) : Word × Scg :=
  scTake (if g.remaining.val = 0 then scRefill top rounds g else g)

end Sys2Proof.Machine
end

