-- ==== Sys2Proof/Machine/Tempered.lean ====
section
/-!
DEFINITION. The Tempered-Recurrence Generator (spec/43_tempered.md): state initialisation and word production of one
TRG unit. Index arithmetic is mod 32 (R201), the arithmetic of `Fin 32`.
-/

namespace Sys2Proof.Machine

/-- `InitState_TR(g, s)` (R200), and `seeded <- 1` (R131). -/
def initStateTr (s : Vector Word 32) : Trg where
  v := s.set 0 (s[0] ||| 0x00000001#32)
  idx := 0
  seeded := true

/-- The first temporary, `z0` (R202). -/
def trZ0 (v : Vector Word 32) (i : Fin 32) : Word := v[i + 31]

/-- The second temporary, `z1` (R203). -/
def trZ1 (v : Vector Word 32) (i : Fin 32) : Word :=
  let t := v[i + 3]
  v[i] ^^^ t ^^^ shr32 t 8

/-- The third temporary, `z2` (R204). -/
def trZ2 (v : Vector Word 32) (i : Fin 32) : Word :=
  let a := v[i + 24]
  let b := v[i + 10]
  (a ^^^ shl32 a 19) ^^^ (b ^^^ shl32 b 14)

/-- The word written at `i + 31` (R205). -/
def trTemper (z0 z1 z2 : Word) : Word :=
  z0 ^^^ shl32 z0 11 ^^^ z1 ^^^ shl32 z1 7 ^^^ z2 ^^^ shl32 z2 13

/-- `Produce_TR(g)` (R206): all reads before both writes; the word returned is the one at the new index. -/
def produceTr (g : Trg) : Word × Trg :=
  let i := g.idx
  let z0 := trZ0 g.v i
  let z1 := trZ1 g.v i
  let z2 := trZ2 g.v i
  let j : Fin 32 := i + 31
  let v := (g.v.set i (z1 ^^^ z2)).set j (trTemper z0 z1 z2)
  (v[j], { g with v := v, idx := j })

end Sys2Proof.Machine
end

