-- ==== Sys2Proof/Machine/Ops.lean ====
section
/-!
DEFINITION. The named operations over the state: ending a command with a response or with an error status (this
machine's whole exception mechanism, spec/60_exceptions.md R250, R255), one word production and one seeding of a unit
named by kind and number (spec/41_base_contract.md R130, R131), and the events of the command port
(spec/70_reset_and_hazards.md R281, R283, R284).
-/

namespace Sys2Proof.Machine

/-- What a step answers. -/
abbrev Result := Host.Outcome State Fault Refusal

/-! ## Updates of one field -/

/-- The state in another phase. -/
def State.setPhase (p : Phase) (s : State) : State := { s with phase := p }

/-- The state with another SCG bank. -/
def State.setScg (b : List Scg) (s : State) : State := { s with scg := b }

/-- The state with another TRG bank. -/
def State.setTrg (b : List Trg) (s : State) : State := { s with trg := b }

/-- The state with another LFG bank. -/
def State.setLfg (b : List Lfg) (s : State) : State := { s with lfg := b }

/-- The state with another frame, or none, held by the port. -/
def State.setPort (f : Option Frame) (s : State) : State := { s with port := f }

/-- The state with another host side. -/
def State.setHost (h : HostSide) (s : State) : State := { s with host := h }

/-! ## Ending a command -/

/-- The status word of a status: its code in bits 7:0, zeros above (R80, R240). -/
def statusWord : Status → Word
  | .ok => 0x00
  | .frameError => 0x01
  | .illegalOpcode => 0x02
  | .reservedField => 0x03
  | .badInstance => 0x04
  | .invalidRate => 0x05
  | .invalidCount => 0x06
  | .invalidRange => 0x07
  | .rangeTooWide => 0x08
  | .notSeeded => 0x09

/-- `raise <Status>` (R9): the response is the status word alone (R81) and no other state is written (R250). Nothing is
saved, no mode changes and no vector is fetched (R255). -/
def State.raise (st : Status) (s : State) : Result := .next (s.setPhase (.done [statusWord st]))

/-- `respond(OK, w0, w1, ...)` (R9, R81): the response frame waits for the host (R283). -/
def State.respond (results : List Word) (s : State) : Result :=
  .next (s.setPhase (.done (statusWord .ok :: results)))

/-! ## Units -/

/-- `NUM_K` (R23): the number of units of a kind, which is the length of its bank (log 16). -/
def State.num (s : State) : Kind → Nat
  | .sc => s.scg.length
  | .tr => s.trg.length
  | .lf => s.lfg.length

/-- `Produce(g)` for unit `i` of kind `k` (R130): the word, and the state with that unit advanced; `none` where the
bank has no such unit. -/
def State.produce (k : Kind) (i : Nat) (s : State) : Option (Word × State) :=
  match k with
  | .sc => s.scg[i]?.map fun g =>
      let p := produceSc s.cfg.scCounterTop (s.cfg.roundsOf i) g
      (p.1, s.setScg (s.scg.set i p.2))
  | .tr => s.trg[i]?.map fun g =>
      let p := produceTr g
      (p.1, s.setTrg (s.trg.set i p.2))
  | .lf => s.lfg[i]?.map fun g =>
      let p := produceLf g
      (p.1, s.setLfg (s.lfg.set i p.2))

/-- `Seed(g, w)` for unit `i` of kind `k` (R131). -/
def State.seedUnit (k : Kind) (i : Nat) (w : List Word) (s : State) : State :=
  match k with
  | .sc => s.setScg (s.scg.modify i fun g => initStateSc (s.cfg.roundsOf i) g (seedVector w seedWordsSc))
  | .tr => s.setTrg (s.trg.modify i fun _ => initStateTr (seedVector w seedWordsTr))
  | .lf => s.setLfg (s.lfg.modify i fun _ => initStateLf (seedVector w seedWordsLf))

/-- One draw from unit `i` of kind `k`: `andThen` gets the word and the advanced state (R141, R143). -/
def State.draw (k : Kind) (i : Nat) (s : State) (andThen : Word → State → Result) : Result :=
  match s.produce k i with
  | some (w, t) => andThen w t
  | none => .fault (.missingUnit k i)

/-- Check 5 of R251: BAD_INSTANCE when `INST ≥ NUM_K` (R244). -/
def requireUnit (k : Kind) (inst : BitVec 8) (s : State) (body : Result) : Result :=
  if s.num k ≤ inst.toNat then s.raise .badInstance else body

/-! ## The command port -/

/-- The host submits `f` (R283, R284): in IDLE the sequencer accepts it; in BUSY or DONE the port holds it. -/
def State.submitFrame (f : Frame) (s : State) : State :=
  match s.phase with
  | .idle => s.setPhase (.busy f)
  | .busy _ => s.setPort (some f)
  | .drawing _ => s.setPort (some f)
  | .done _ => s.setPort (some f)

/-- In IDLE the sequencer accepts the frame the port holds (R284); with none it does nothing (R263). -/
def State.acceptHeld (s : State) : State :=
  match s.port with
  | some f => (s.setPhase (.busy f)).setPort none
  | none => s

/-- The host has read the whole response `r` (R283): DONE → IDLE. -/
def State.deliver (r : Frame) (s : State) : State :=
  (s.setPhase .idle).setHost { s.host with received := s.host.received ++ [r] }

/-- Reset with the parameters `c` (R280, R281): whatever the block was doing is abandoned and no response is delivered.
An illegal configuration is refused (R176, D13; for the number of units DEDUCED, log 5). -/
def State.assertReset (c : Config) (s : State) : Result :=
  if c.legal then .next (State.resetWith c s.host) else .refused (.illegalConfig c)

/-- The state with the host's script cut to `rest`. -/
def State.withScript (rest : List HostEvent) (s : State) : State :=
  s.setHost { s.host with script := rest }

/-- What the host does in this step, if it acts (R290). It cannot submit while the port holds a frame, and it cannot
read while no response waits: then it is the sequencer's turn and the event stays first in the script. -/
def hostMove (s : State) : Option Result :=
  match s.host.script with
  | [] => none
  | .wait :: _ => none
  | .submit f :: rest => if s.port.isNone then some (.next ((s.withScript rest).submitFrame f)) else none
  | .read :: rest =>
    match s.phase with
    | .done r => some (.next ((s.withScript rest).deliver r))
    | .idle => none
    | .busy _ => none
    | .drawing _ => none
  | .reset c :: rest => some ((s.withScript rest).assertReset c)

/-- The state on the sequencer's turn: a `wait` at the head of the script is used up (log 1). -/
def State.hostWaits (s : State) : State :=
  match s.host.script with
  | .wait :: rest => s.withScript rest
  | _ => s

end Sys2Proof.Machine
end

