-- ==== Sys2Proof/Machine/Flags.lean ====
section
/-!
DEFINITION. The flags. Kans CORE has no condition codes and no carry flag (spec/10_state.md R34); its only flag is the
`seeded` bit of each generator unit (R22), read here and set by seeding (`initStateSc`, `initStateTr`, `initStateLf`).
-/

namespace Sys2Proof.Machine

/-- The `seeded` bit of unit `i` of kind `k` (R22). -/
def State.isSeeded (k : Kind) (i : Nat) (s : State) : Bool :=
  match k with
  | .sc => (s.scg[i]?).any fun g => g.seeded
  | .tr => (s.trg[i]?).any fun g => g.seeded
  | .lf => (s.lfg[i]?).any fun g => g.seeded

/-- Check 10 of R251: NOT_SEEDED when the unit's `seeded` bit is 0 (R249). -/
def requireSeeded (k : Kind) (inst : BitVec 8) (s : State) (body : Result) : Result :=
  if s.isSeeded k inst.toNat then body else s.raise .notSeeded

end Sys2Proof.Machine
end

