-- ==== Sys2Proof/WellFormed.lean ====
section
/-!
DEFINITION. The commands that have an encoding: every field but the two word counts has its width in its type, so the
one check is that a list's length fits the 32-bit count word `L` (spec/30_encoding.md R76, R79).
-/

namespace Sys2Proof

/-- The count word `L` can hold this list's length (R79: counts from 0 to 2^32 - 1). -/
def countFits (ws : List Word) : Bool := decide (ws.length < 2 ^ 32)

/-- The command has an encoding. A RATE or an INST that the command will turn away is still an encoding (R74, R73). -/
def Instr.wellFormed : Instr → Bool
  | .hash _ _ input => countFits input
  | .seedSc _ seed => countFits seed
  | .seedTr _ seed => countFits seed
  | .seedLf _ seed => countFits seed
  | .nextSc _ => true
  | .nextTr _ => true
  | .nextLf _ => true
  | .rdblSc _ => true
  | .rdblTr _ => true
  | .rdblLf _ => true
  | .rrangeSc _ _ _ => true
  | .rrangeTr _ _ _ => true
  | .rrangeLf _ _ _ => true
  | .rindexSc _ _ => true
  | .rindexTr _ _ => true
  | .rindexLf _ _ => true

end Sys2Proof
end

