-- ==== Sys2Proof/Decode.lean ====
section
/-!
DEFINITION. The decoder of command frames (spec/30_encoding.md), total on every frame: it answers the command, or the
status by which checks 1 to 4 of spec/60_exceptions.md R251 turn the frame away. After it the encoder, written from the
same rules.
-/

namespace Sys2Proof

/-! ## The header (R71) -/

/-- `OPC`, header bits 31:24. -/
def opcField (h : Word) : BitVec 8 := h.extractLsb' 24 8

/-- `INST`, header bits 23:16 (R73). -/
def instField (h : Word) : BitVec 8 := h.extractLsb' 16 8

/-- `RATE`, header bits 4:0 (R74). -/
def rateField (h : Word) : BitVec 5 := h.extractLsb' 0 5

/-- The opcode map of R82; `none` is an unassigned OPC (R83). -/
def opcodeOf (opc : BitVec 8) : Option Opcode :=
  match opc with
  | 0x01#8 => some .hash
  | 0x10#8 => some (.seed .sc)
  | 0x11#8 => some (.seed .tr)
  | 0x12#8 => some (.seed .lf)
  | 0x20#8 => some (.next .sc)
  | 0x21#8 => some (.next .tr)
  | 0x22#8 => some (.next .lf)
  | 0x30#8 => some (.rdbl .sc)
  | 0x31#8 => some (.rdbl .tr)
  | 0x32#8 => some (.rdbl .lf)
  | 0x40#8 => some (.rrange .sc)
  | 0x41#8 => some (.rrange .tr)
  | 0x42#8 => some (.rrange .lf)
  | 0x50#8 => some (.rindex .sc)
  | 0x51#8 => some (.rindex .tr)
  | 0x52#8 => some (.rindex .lf)
  | _ => none

/-- The reserved header bits (R75): 15:5 for every opcode, 23:16 for HASH, 4:0 for every opcode except HASH. -/
def reservedMask : Opcode → Word
  | .hash => 0x00FFFFE0#32
  | .seed _ => 0x0000FFFF#32
  | .next _ => 0x0000FFFF#32
  | .rdbl _ => 0x0000FFFF#32
  | .rrange _ => 0x0000FFFF#32
  | .rindex _ => 0x0000FFFF#32

/-! ## Formats and lengths (R76, R84) -/

/-- The format of each opcode class (R76). -/
def formatOf : Opcode → Format
  | .hash => .FH
  | .seed _ => .FS
  | .next _ => .FN
  | .rdbl _ => .FN
  | .rrange _ => .FR
  | .rindex _ => .FI

/-- The frame length of R84, where `l` is the word after the header; `none` where the frame has no such word and the
format needs it (R241). -/
def frameLength : Format → Option Word → Option Nat
  | .FH, l => l.map fun l => 3 + u32 l
  | .FS, l => l.map fun l => 2 + u32 l
  | .FN, _ => some 1
  | .FR, _ => some 5
  | .FI, _ => some 3

/-- The frame is longer than `MAX_FRAME_WORDS`, where that parameter is bounded (R241). -/
def overlong (maxWords : Option Nat) (f : Frame) : Bool :=
  match maxWords with
  | none => false
  | some m => decide (m < f.length)

/-! ## Operands (R76, R79) -/

/-- The two words of a 64-bit operand, less significant word first (R53, R79). -/
def s64 (lo hi : Word) : BitVec 64 := hi ++ lo

/-- The SEED command of a kind (R82). -/
def seedInstr (inst : BitVec 8) (ws : List Word) : Kind → Instr
  | .sc => .seedSc inst ws
  | .tr => .seedTr inst ws
  | .lf => .seedLf inst ws

/-- The NEXT command of a kind (R82). -/
def nextInstr (inst : BitVec 8) : Kind → Instr
  | .sc => .nextSc inst
  | .tr => .nextTr inst
  | .lf => .nextLf inst

/-- The RDBL command of a kind (R82). -/
def rdblInstr (inst : BitVec 8) : Kind → Instr
  | .sc => .rdblSc inst
  | .tr => .rdblTr inst
  | .lf => .rdblLf inst

/-- The RRANGE command of a kind (R82). -/
def rrangeInstr (inst : BitVec 8) (lower upper : BitVec 64) : Kind → Instr
  | .sc => .rrangeSc inst lower upper
  | .tr => .rrangeTr inst lower upper
  | .lf => .rrangeLf inst lower upper

/-- The RINDEX command of a kind (R82). -/
def rindexInstr (inst : BitVec 8) (count : BitVec 64) : Kind → Instr
  | .sc => .rindexSc inst count
  | .tr => .rindexTr inst count
  | .lf => .rindexLf inst count

/-- The command the words after the header give (R76, R79); `none` where their number is not the one R84 computes. -/
def parseOperands (op : Opcode) (h : Word) (rest : List Word) : Option Instr :=
  match op, rest with
  | .hash, l :: m :: ws => if ws.length = u32 l then some (.hash (rateField h) m ws) else none
  | .seed k, l :: ws => if ws.length = u32 l then some (seedInstr (instField h) ws k) else none
  | .next k, [] => some (nextInstr (instField h) k)
  | .rdbl k, [] => some (rdblInstr (instField h) k)
  | .rrange k, [a, b, c, d] => some (rrangeInstr (instField h) (s64 a b) (s64 c d) k)
  | .rindex k, [a, b] => some (rindexInstr (instField h) (s64 a b) k)
  | _, _ => none

/-! ## The decoder -/

/-- Checks 1 to 4 of R251 in order, and the command of a frame that passes them. -/
def decode (maxWords : Option Nat) (f : Frame) : Except Status Instr :=
  match f with
  | [] => .error .frameError
  | h :: rest =>
    match opcodeOf (opcField h) with
    | none => .error .illegalOpcode
    | some op =>
      if h &&& reservedMask op ≠ 0 then .error .reservedField
      else if overlong maxWords f then .error .frameError
      else
        match parseOperands op h rest with
        | none => .error .frameError
        | some i => .ok i

/-! ## The encoder -/

/-- The OPC of an opcode (R82). -/
def opcOf : Opcode → BitVec 8
  | .hash => 0x01#8
  | .seed .sc => 0x10#8
  | .seed .tr => 0x11#8
  | .seed .lf => 0x12#8
  | .next .sc => 0x20#8
  | .next .tr => 0x21#8
  | .next .lf => 0x22#8
  | .rdbl .sc => 0x30#8
  | .rdbl .tr => 0x31#8
  | .rdbl .lf => 0x32#8
  | .rrange .sc => 0x40#8
  | .rrange .tr => 0x41#8
  | .rrange .lf => 0x42#8
  | .rindex .sc => 0x50#8
  | .rindex .tr => 0x51#8
  | .rindex .lf => 0x52#8

/-- The header of R71: OPC, INST, eleven zeros, RATE. -/
def headerWord (opc : BitVec 8) (inst : BitVec 8) (rate : BitVec 5) : Word := opc ++ inst ++ 0#11 ++ rate

/-- The opcode of a command (R82). -/
def Instr.opcode : Instr → Opcode
  | .hash _ _ _ => .hash
  | .seedSc _ _ => .seed .sc
  | .seedTr _ _ => .seed .tr
  | .seedLf _ _ => .seed .lf
  | .nextSc _ => .next .sc
  | .nextTr _ => .next .tr
  | .nextLf _ => .next .lf
  | .rdblSc _ => .rdbl .sc
  | .rdblTr _ => .rdbl .tr
  | .rdblLf _ => .rdbl .lf
  | .rrangeSc _ _ _ => .rrange .sc
  | .rrangeTr _ _ _ => .rrange .tr
  | .rrangeLf _ _ _ => .rrange .lf
  | .rindexSc _ _ => .rindex .sc
  | .rindexTr _ _ => .rindex .tr
  | .rindexLf _ _ => .rindex .lf

/-- The INST field a command's header holds: zero for HASH, where it is reserved (R73). -/
def Instr.instBits : Instr → BitVec 8
  | .hash _ _ _ => 0
  | .seedSc i _ => i
  | .seedTr i _ => i
  | .seedLf i _ => i
  | .nextSc i => i
  | .nextTr i => i
  | .nextLf i => i
  | .rdblSc i => i
  | .rdblTr i => i
  | .rdblLf i => i
  | .rrangeSc i _ _ => i
  | .rrangeTr i _ _ => i
  | .rrangeLf i _ _ => i
  | .rindexSc i _ => i
  | .rindexTr i _ => i
  | .rindexLf i _ => i

/-- The RATE field a command's header holds: zero for every command but HASH (R75). -/
def Instr.rateBits : Instr → BitVec 5
  | .hash r _ _ => r
  | .seedSc _ _ => 0
  | .seedTr _ _ => 0
  | .seedLf _ _ => 0
  | .nextSc _ => 0
  | .nextTr _ => 0
  | .nextLf _ => 0
  | .rdblSc _ => 0
  | .rdblTr _ => 0
  | .rdblLf _ => 0
  | .rrangeSc _ _ _ => 0
  | .rrangeTr _ _ _ => 0
  | .rrangeLf _ _ _ => 0
  | .rindexSc _ _ => 0
  | .rindexTr _ _ => 0
  | .rindexLf _ _ => 0

/-- The header of a command. -/
def Instr.header (i : Instr) : Word := headerWord (opcOf i.opcode) i.instBits i.rateBits

/-- The count word `L` of a list (R76). -/
def countWord (ws : List Word) : Word := BitVec.ofNat 32 ws.length

/-- The two words of a 64-bit value, less significant word first (R53). -/
def words64 (d : BitVec 64) : List Word := [d.extractLsb' 0 32, d.extractLsb' 32 32]

/-- The words after the header (R76, R79). -/
def Instr.operandWords : Instr → List Word
  | .hash _ m input => countWord input :: m :: input
  | .seedSc _ ws => countWord ws :: ws
  | .seedTr _ ws => countWord ws :: ws
  | .seedLf _ ws => countWord ws :: ws
  | .nextSc _ => []
  | .nextTr _ => []
  | .nextLf _ => []
  | .rdblSc _ => []
  | .rdblTr _ => []
  | .rdblLf _ => []
  | .rrangeSc _ lower upper => words64 lower ++ words64 upper
  | .rrangeTr _ lower upper => words64 lower ++ words64 upper
  | .rrangeLf _ lower upper => words64 lower ++ words64 upper
  | .rindexSc _ count => words64 count
  | .rindexTr _ count => words64 count
  | .rindexLf _ count => words64 count

/-- The frame of a command: its header and its operand words (R70, R76). -/
def encode (i : Instr) : Frame := i.header :: i.operandWords

/-! ## Frames given as one number -/

/-- Word `k` of the bits of `w` below `nbits`, where bit 0 of `w` is bit 0 of the first word. -/
def tableWord (nbits w k : Nat) : Word := BitVec.ofNat 32 (w % 2 ^ nbits / 2 ^ (32 * k))

/-- The frame whose bits below `nbits` are those of `w` and whose other bits are 0, as long as R84 says (one word where
the OPC is unassigned). -/
def tableFrame (nbits w : Nat) : Frame :=
  let len :=
    match opcodeOf (opcField (tableWord nbits w 0)) with
    | none => 1
    | some op => (frameLength (formatOf op) (some (tableWord nbits w 1))).getD 1
  (List.range len).map (tableWord nbits w)

/-- What the decoder reads from that frame, on a port without a length limit. -/
def decodeTableWord (nbits w : Nat) : Option Instr :=
  match decode none (tableFrame nbits w) with
  | .ok i => some i
  | .error _ => none

end Sys2Proof
end

