-- ==== Sys2Proof/Machine/Operands.lean ====
section
/-!
DEFINITION. The operand and result forms: the signed range operands (spec/30_encoding.md R79), the arithmetic of the
ranged integer (spec/41_base_contract.md R140, R141), the binary64 encoding of a double (R139) and the result words
(R81).
-/

namespace Sys2Proof.Machine

/-- The integer a 64-bit operand stands for: two's complement (R79). -/
def operandInt (d : BitVec 64) : Int := d.toInt

/-- `n = upper - lower + 1` of R141, an unbounded integer. -/
def rangeSize (lower upper : Int) : Int := upper - lower + 1

/-- `bound(n) = 2^32 - (2^32 mod n)` (R140). -/
def rangeBound (n : Nat) : Nat := 2 ^ 32 - 2 ^ 32 % n

/-- `lower + floor(n * u32(w) / b)` (R141). -/
def rangeResult (lower : Int) (n b : Nat) (w : Word) : Int := lower + (n * u32 w / b : Nat)

/-- The result of a range command as two words of its 64-bit two's-complement encoding, low word first (R81, R141). -/
def rangeWords (r : Int) : List Word := [w32 r, w32 (r / 2 ^ 32)]

/-- `Binary64(v)` of R139, for 0 ≤ v < 2^32: the binary64 encoding of v * 2^-32. -/
def binary64 (v : Nat) : BitVec 64 :=
  if v = 0 then 0
  else
    let p := v.log2
    BitVec.ofNat 64 ((p + 991) * 2 ^ 52 + v * 2 ^ (52 - p) % 2 ^ 52)

/-- The two result words of RDBL, low word first (R81, R143). -/
def doubleWords (w : Word) : List Word := words64 (binary64 (u32 w))

end Sys2Proof.Machine
end

