-- ==== Sys2Proof/Machine/Hash.lean ====
section
/-!
DEFINITION. The meaning of HASH (spec/40_sponge.md R115).
-/

namespace Sys2Proof.Machine

/-- A legal word rate: 1 ≤ r ≤ 25 (R101, R245). -/
def legalRate (rate : BitVec 5) : Bool := 1 ≤ rate.toNat && rate.toNat ≤ 25

/-- HASH (R115): INVALID_RATE, or the words of SpongeHash; no state but the response is written. -/
def execHash (rate : BitVec 5) (outCount : Word) (input : List Word) (s : State) : Result :=
  if legalRate rate then s.respond (spongeHash input (u32 outCount) rate.toNat) else s.raise .invalidRate

end Sys2Proof.Machine
end

