-- ==== Sys2Proof/Machine/Next.lean ====
section
/-!
DEFINITION. The meanings of NEXT.SC (spec/42_stream_cipher.md R181), NEXT.TR (spec/43_tempered.md R207) and NEXT.LF
(spec/44_lagged_fib.md R227).
-/

namespace Sys2Proof.Machine

/-- Every NEXT.K: BAD_INSTANCE, NOT_SEEDED, or the next word of the unit (R181, R207, R227). -/
def nextCommand (k : Kind) (inst : BitVec 8) (s : State) : Result :=
  requireUnit k inst s (requireSeeded k inst s (s.draw k inst.toNat fun w t => t.respond [w]))

/-- NEXT.SC (R181). -/
def execNextSc (inst : BitVec 8) (s : State) : Result := nextCommand .sc inst s

/-- NEXT.TR (R207). -/
def execNextTr (inst : BitVec 8) (s : State) : Result := nextCommand .tr inst s

/-- NEXT.LF (R227). -/
def execNextLf (inst : BitVec 8) (s : State) : Result := nextCommand .lf inst s

end Sys2Proof.Machine
end

