-- ==== Sys2Proof/Machine/Range.lean ====
section
/-!
DEFINITION. The rejection sampler (spec/41_base_contract.md R141), its draw micro-step (spec/70_reset_and_hazards.md
R285), and the meanings of RRANGE.K (R146 to R148) and RINDEX.K (R149 to R151).
-/

namespace Sys2Proof.Machine

/-- One micro-step of the draw loop (R141, R285): one Produce; an accepted word ends the command, a rejected one leaves
the sequencer in the loop. There is no cap on the number of micro-steps. -/
def drawStep (d : DrawLoop) (s : State) : Result :=
  s.draw d.kind d.inst fun w t =>
    if u32 w < d.bound then t.respond (rangeWords (rangeResult d.lower d.n d.bound w))
    else .next (t.setPhase (.drawing d))

/-- The draw loop of a range command on `[lower, upper]` (R141). -/
def drawLoop (k : Kind) (inst : BitVec 8) (lower upper : Int) : DrawLoop :=
  let n := (rangeSize lower upper).toNat
  { kind := k, inst := inst.toNat, lower := lower, n := n, bound := rangeBound n }

/-- `RangeCommand(g, lower, upper)` (R141): the checks, then the first micro-step of the draw loop (log 9). -/
def rangeCommand (k : Kind) (inst : BitVec 8) (lower upper : Int) (s : State) : Result :=
  if upper < lower then s.raise .invalidRange
  else if 2 ^ 32 < rangeSize lower upper then s.raise .rangeTooWide
  else requireSeeded k inst s (drawStep (drawLoop k inst lower upper) s)

/-- Every RRANGE.K (R146). -/
def rrangeCommand (k : Kind) (inst : BitVec 8) (lower upper : BitVec 64) (s : State) : Result :=
  requireUnit k inst s (rangeCommand k inst (operandInt lower) (operandInt upper) s)

/-- Every RINDEX.K (R149): a negative count is INVALID_COUNT; a zero count is INVALID_RANGE by delegation (R247). -/
def rindexCommand (k : Kind) (inst : BitVec 8) (count : BitVec 64) (s : State) : Result :=
  requireUnit k inst s
    (if operandInt count < 0 then s.raise .invalidCount else rangeCommand k inst 0 (operandInt count - 1) s)

/-- RRANGE.SC (R146). -/
def execRrangeSc (inst : BitVec 8) (lower upper : BitVec 64) (s : State) : Result := rrangeCommand .sc inst lower upper s

/-- RRANGE.TR (R147). -/
def execRrangeTr (inst : BitVec 8) (lower upper : BitVec 64) (s : State) : Result := rrangeCommand .tr inst lower upper s

/-- RRANGE.LF (R148). -/
def execRrangeLf (inst : BitVec 8) (lower upper : BitVec 64) (s : State) : Result := rrangeCommand .lf inst lower upper s

/-- RINDEX.SC (R149). -/
def execRindexSc (inst : BitVec 8) (count : BitVec 64) (s : State) : Result := rindexCommand .sc inst count s

/-- RINDEX.TR (R150). -/
def execRindexTr (inst : BitVec 8) (count : BitVec 64) (s : State) : Result := rindexCommand .tr inst count s

/-- RINDEX.LF (R151). -/
def execRindexLf (inst : BitVec 8) (count : BitVec 64) (s : State) : Result := rindexCommand .lf inst count s

end Sys2Proof.Machine
end

