-- ==== Sys2Proof/Machine/Rdbl.lean ====
section
/-!
DEFINITION. The meanings of RDBL.SC, RDBL.TR and RDBL.LF (spec/41_base_contract.md R143 to R145).
-/

namespace Sys2Proof.Machine

/-- Every RDBL.K: BAD_INSTANCE, NOT_SEEDED, or the binary64 words of the next word times 2^-32 (R138, R143). -/
def rdblCommand (k : Kind) (inst : BitVec 8) (s : State) : Result :=
  requireUnit k inst s (requireSeeded k inst s (s.draw k inst.toNat fun w t => t.respond (doubleWords w)))

/-- RDBL.SC (R143). -/
def execRdblSc (inst : BitVec 8) (s : State) : Result := rdblCommand .sc inst s

/-- RDBL.TR (R144). -/
def execRdblTr (inst : BitVec 8) (s : State) : Result := rdblCommand .tr inst s

/-- RDBL.LF (R145). -/
def execRdblLf (inst : BitVec 8) (s : State) : Result := rdblCommand .lf inst s

end Sys2Proof.Machine
end

