-- ==== Sys2Proof/Machine/Seed.lean ====
section
/-!
DEFINITION. The meanings of SEED.SC, SEED.TR and SEED.LF (spec/41_base_contract.md R132, R134 to R136).
-/

namespace Sys2Proof.Machine

/-- Every SEED.K (R132). It is legal on a seeded and on an unseeded unit. -/
def seedCommand (k : Kind) (inst : BitVec 8) (seed : List Word) (s : State) : Result :=
  requireUnit k inst s ((s.seedUnit k inst.toNat seed).respond [])

/-- SEED.SC (R134). -/
def execSeedSc (inst : BitVec 8) (seed : List Word) (s : State) : Result := seedCommand .sc inst seed s

/-- SEED.TR (R135). -/
def execSeedTr (inst : BitVec 8) (seed : List Word) (s : State) : Result := seedCommand .tr inst seed s

/-- SEED.LF (R136). -/
def execSeedLf (inst : BitVec 8) (seed : List Word) (s : State) : Result := seedCommand .lf inst seed s

end Sys2Proof.Machine
end

