-- ==== Sys2Proof/Machine/Dispatch.lean ====
section
/-! DEFINITION. One arm for each command of spec/opcode_table.json. -/

namespace Sys2Proof.Machine

/-- Runs one decoded command: checks 5 to 10 of R251 and the command's rule. -/
def exec (i : Instr) (s : State) : Host.Outcome State Fault Refusal :=
  match i with
  | .hash rate outCount input => Sys2Proof.Machine.execHash rate outCount input s
  | .seedSc inst seed => Sys2Proof.Machine.execSeedSc inst seed s
  | .seedTr inst seed => Sys2Proof.Machine.execSeedTr inst seed s
  | .seedLf inst seed => Sys2Proof.Machine.execSeedLf inst seed s
  | .nextSc inst => Sys2Proof.Machine.execNextSc inst s
  | .nextTr inst => Sys2Proof.Machine.execNextTr inst s
  | .nextLf inst => Sys2Proof.Machine.execNextLf inst s
  | .rdblSc inst => Sys2Proof.Machine.execRdblSc inst s
  | .rdblTr inst => Sys2Proof.Machine.execRdblTr inst s
  | .rdblLf inst => Sys2Proof.Machine.execRdblLf inst s
  | .rrangeSc inst lower upper => Sys2Proof.Machine.execRrangeSc inst lower upper s
  | .rrangeTr inst lower upper => Sys2Proof.Machine.execRrangeTr inst lower upper s
  | .rrangeLf inst lower upper => Sys2Proof.Machine.execRrangeLf inst lower upper s
  | .rindexSc inst count => Sys2Proof.Machine.execRindexSc inst count s
  | .rindexTr inst count => Sys2Proof.Machine.execRindexTr inst count s
  | .rindexLf inst count => Sys2Proof.Machine.execRindexLf inst count s

end Sys2Proof.Machine
end

