-- ==== Sys2Proof/Machine/Sequencer.lean ====
section
/-!
DEFINITION. The sequencer's own move (spec/70_reset_and_hazards.md R283) in each phase.
-/

namespace Sys2Proof.Machine

/-- The accepted frame `f` runs (R283): a frame that checks 1 to 4 of R251 turn away ends with that status; otherwise the
command it encodes runs. -/
def runFrame (f : Frame) (s : State) : Result :=
  match decode s.cfg.maxFrameWords f with
  | .error st => s.raise st
  | .ok i => exec i s

/-- The sequencer's move (R283): IDLE takes the frame the port holds, BUSY runs it or its next micro-step, DONE waits
until the host has read the response. -/
def sequencerStep (s : State) : Result :=
  match s.phase with
  | .idle => .next s.acceptHeld
  | .busy f => runFrame f s
  | .drawing d => drawStep d s
  | .done _ => .next s

end Sys2Proof.Machine
end

