-- ==== Sys2Proof/Machine/Step.lean ====
section
/-!
DEFINITION. One step of the machine: the host's move where the host can act, else the sequencer's
(spec/70_reset_and_hazards.md R283, R290).
-/

namespace Sys2Proof.Machine

/-- One step. -/
def step (s : State) : Host.Outcome State Fault Refusal :=
  match hostMove s with
  | some r => r
  | none => sequencerStep s.hostWaits

/-- The state in which the frame of an opcode-table word has just been accepted (R283: BUSY), with the host waiting for
one step, so that the next step runs exactly that frame (log 12). -/
def State.withFetchWord (s : State) (nbits w : Nat) : State :=
  (s.setPhase (.busy (tableFrame nbits w))).withScript (.wait :: s.host.script)

end Sys2Proof.Machine
end

