-- ==== Sys2Proof/Machine/Assembler.lean ====
section
/-!
DEFINITION. The assembler's view (spec/30_encoding.md R77, R78): the pseudo-commands as the commands they expand to, and
the line of assembly text of each command. No semantics rests on it (D5).
-/

namespace Sys2Proof.Machine

/-- `SEED1.K #i, v` expands to `SEED.K #i, [v]` (R77). -/
def seed1 (k : Kind) (inst : BitVec 8) (v : Word) : Instr := seedInstr inst [v] k

/-- `RBYTE.K #i` expands to `RRANGE.K #i, 0, 255` (R77). -/
def rbyte (k : Kind) (inst : BitVec 8) : Instr := rrangeInstr inst 0 255 k

/-- The suffix `.K` of R78. -/
def kindSuffix : Kind → String
  | .sc => ".SC"
  | .tr => ".TR"
  | .lf => ".LF"

/-- The mnemonic of an opcode (R82). -/
def mnemonic : Opcode → String
  | .hash => "HASH"
  | .seed k => "SEED" ++ kindSuffix k
  | .next k => "NEXT" ++ kindSuffix k
  | .rdbl k => "RDBL" ++ kindSuffix k
  | .rrange k => "RRANGE" ++ kindSuffix k
  | .rindex k => "RINDEX" ++ kindSuffix k

/-- The operands of a command as decimal text, in the order of R78. -/
def operandTexts : Instr → List String
  | .hash rate m input => ["rate=" ++ toString rate.toNat, "out=" ++ toString m.toNat, wordList input]
  | .seedSc i ws => [unitText i, wordList ws]
  | .seedTr i ws => [unitText i, wordList ws]
  | .seedLf i ws => [unitText i, wordList ws]
  | .nextSc i => [unitText i]
  | .nextTr i => [unitText i]
  | .nextLf i => [unitText i]
  | .rdblSc i => [unitText i]
  | .rdblTr i => [unitText i]
  | .rdblLf i => [unitText i]
  | .rrangeSc i lower upper => [unitText i, toString lower.toInt, toString upper.toInt]
  | .rrangeTr i lower upper => [unitText i, toString lower.toInt, toString upper.toInt]
  | .rrangeLf i lower upper => [unitText i, toString lower.toInt, toString upper.toInt]
  | .rindexSc i count => [unitText i, toString count.toInt]
  | .rindexTr i count => [unitText i, toString count.toInt]
  | .rindexLf i count => [unitText i, toString count.toInt]
where
  /-- `#inst`, decimal. -/
  unitText (i : BitVec 8) : String := "#" ++ toString i.toNat
  /-- `[w0, w1, ...]`. -/
  wordList (ws : List Word) : String := "[" ++ String.intercalate ", " (ws.map fun w => toString w.toNat) ++ "]"

/-- One command as a line of assembly (R78). -/
def assembly (i : Instr) : String := mnemonic i.opcode ++ " " ++ String.intercalate ", " (operandTexts i)

end Sys2Proof.Machine
end

