-- ==== Sys2Proof/Safety.lean ====
section
/-!
DEFINITION. What claims about runs are stated in: the invariant of spec/10_state.md R36 and R26, completion of a command
over the micro-steps of R285, the unit a command names, and when two states differ only in unspecified values (R38).
-/

namespace Sys2Proof.Machine

/-! ## The invariant -/

/-- The constants of R36, and R26: a seeded unit's `out` is the block of its `core`. -/
def scgOk (c : Config) (i : Nat) (g : Scg) : Prop :=
  (∀ k : Fin 4, g.core[k.val] = c.scConst[k.val]) ∧ (g.seeded = true → g.out = scBlock (c.roundsOf i) g.core)

/-- A response frame (R80, R81): a status word, alone unless the status is OK. -/
def responseOk (r : Frame) : Prop :=
  ∃ st results, r = statusWord st :: results ∧ (st ≠ .ok → results = [])

/-- What holds of RS inside a draw loop (R141): the unit is seeded, 1 ≤ n ≤ 2^32, `bound` is bound(n), and the whole
range lies in the signed 64-bit integers. -/
def drawOk (s : State) (d : DrawLoop) : Prop :=
  s.isSeeded d.kind d.inst = true ∧ 1 ≤ d.n ∧ d.n ≤ 2 ^ 32 ∧ d.bound = rangeBound d.n ∧
    -2 ^ 63 ≤ d.lower ∧ d.lower + d.n ≤ 2 ^ 63

/-- What holds of the phase. -/
def phaseOk (s : State) : Prop :=
  match s.phase with
  | .idle => True
  | .busy _ => True
  | .drawing d => drawOk s d
  | .done r => responseOk r

/-- The model's invariant: a legal configuration (R7, R176), banks of the sizes it gives (R23), every SCG unit as
`scgOk` says, and the phase as `phaseOk` says. (R36's bounds on `remaining` and `idx` are in those fields' types.) -/
structure State.Inv (s : State) : Prop where
  legal : s.cfg.legal = true
  scCount : s.scg.length = s.cfg.numSc
  trCount : s.trg.length = s.cfg.numTr
  lfCount : s.lfg.length = s.cfg.numLf
  scUnits : ∀ i g, s.scg[i]? = some g → scgOk s.cfg i g
  phase : phaseOk s

/-- `NUM_K` as the configuration gives it (R7). -/
def unitCount (c : Config) : Kind → Nat
  | .sc => c.numSc
  | .tr => c.numTr
  | .lf => c.numLf

/-! ## The list of checks of R251, on the words of a frame -/

/-- The kind a generator opcode names (R72). -/
def opcodeKind : Opcode → Option Kind
  | .hash => none
  | .seed k => some k
  | .next k => some k
  | .rdbl k => some k
  | .rrange k => some k
  | .rindex k => some k

/-- Word `k` of a frame (0 past its end, which no check of a frame of the right length reads). -/
def frameWord (f : Frame) (k : Nat) : Word := f.getD k 0

/-- The bounds of a range command, from the words of its frame: RRANGE gives both (R79), RINDEX gives 0 and count - 1
(R149). -/
def frameRange (op : Opcode) (f : Frame) : Option (Int × Int) :=
  match op with
  | .rrange _ =>
    some ((s64 (frameWord f 1) (frameWord f 2)).toInt, (s64 (frameWord f 3) (frameWord f 4)).toInt)
  | .rindex _ => some (0, (s64 (frameWord f 1) (frameWord f 2)).toInt - 1)
  | .hash => none
  | .seed _ => none
  | .next _ => none
  | .rdbl _ => none

/-- The command is RINDEX with a negative count (R246). -/
def negativeCount (op : Opcode) (f : Frame) : Bool :=
  match op with
  | .rindex _ => (s64 (frameWord f 1) (frameWord f 2)).toInt < 0
  | .hash => false
  | .seed _ => false
  | .next _ => false
  | .rdbl _ => false
  | .rrange _ => false

/-- The opcode draws from its unit, so that it needs the unit seeded (R249). -/
def drawsWords : Opcode → Bool
  | .hash => false
  | .seed _ => false
  | .next _ => true
  | .rdbl _ => true
  | .rrange _ => true
  | .rindex _ => true

/-- The ten checks of R251 in order: the condition under which each fails, and its status. -/
def frameChecks (s : State) (f : Frame) : List (Bool × Status) :=
  let h := frameWord f 0
  let op := opcodeOf (opcField h)
  let unit := (h.toNat / 2 ^ 16) % 256
  [ (f.isEmpty, .frameError),
    (op.isNone, .illegalOpcode),
    (op.any fun o => h &&& reservedMask o ≠ 0, .reservedField),
    (op.any fun o => frameLength (formatOf o) f[1]? ≠ some f.length || overlong s.cfg.maxFrameWords f, .frameError),
    ((op.bind opcodeKind).any fun k => s.num k ≤ unit, .badInstance),
    (op.any fun o => o = .hash && (h.toNat % 32 = 0 || 25 < h.toNat % 32), .invalidRate),
    (op.any fun o => negativeCount o f, .invalidCount),
    ((op.bind fun o => frameRange o f).any fun r => r.2 < r.1, .invalidRange),
    ((op.bind fun o => frameRange o f).any fun r => (2 ^ 32 : Int) < r.2 - r.1 + 1, .rangeTooWide),
    (op.any fun o => drawsWords o && (opcodeKind o).any fun k => !s.isSeeded k unit, .notSeeded) ]

/-- The first failing check of R251. -/
def firstError (s : State) (f : Frame) : Option Status := ((frameChecks s f).find? fun c => c.1).map fun c => c.2

/-! ## The grid of R105 -/

/-- The index i = x + 5y of column x and row y (R105). -/
def laneIndex (x y : Fin 5) : Fin 25 := ⟨x.val + 5 * y.val, by omega⟩

/-- The word at column x and row y (R105). -/
def laneAt (a : Lanes) (x y : Fin 5) : Word := a[laneIndex x y]

/-! ## The SCG counter as a number -/

/-- The number the limbs hold, the first one least significant (R175). -/
def counterValue : List (Fin 16) → Block → Nat
  | [], _ => 0
  | i :: is, core => core[i].toNat + 2 ^ 32 * counterValue is core

/-! ## Completion -/

/-- At most `n` micro-steps of the draw loop the state is in (R285); a state outside a draw loop stays as it is. -/
def finish : Nat → State → Result
  | 0, s => .next s
  | n + 1, s =>
    match s.phase with
    | .drawing d =>
      match drawStep d s with
      | .next t => finish n t
      | .fault e => .fault e
      | .refused e => .refused e
    | .idle => .next s
    | .busy _ => .next s
    | .done _ => .next s

/-- The command `i` run on `s` ends with the response `r` and the state `t` (R283, R285). -/
def Completes (i : Instr) (s : State) (r : Frame) (t : State) : Prop :=
  ∃ n u, exec i s = .next u ∧ finish n u = .next t ∧ t.phase = .done r

/-- The state after `n` productions of unit `i` of kind `k` (rejected draws included, R141). -/
def State.afterDraws (k : Kind) (i : Nat) : Nat → State → Option State
  | 0, s => some s
  | n + 1, s => (s.produce k i).bind fun p => p.2.afterDraws k i n

/-- The word that draw number `n` (from 0) of unit `i` of kind `k` gives. -/
def State.drawnWord (k : Kind) (i : Nat) (n : Nat) (s : State) : Option Word :=
  (s.afterDraws k i n).bind fun t => (t.produce k i).map Prod.fst

/-! ## The unit a command names -/

/-- The unit a command names (R73); HASH names none. -/
def target : Instr → Option (Kind × Nat)
  | .hash _ _ _ => none
  | .seedSc i _ => some (.sc, i.toNat)
  | .seedTr i _ => some (.tr, i.toNat)
  | .seedLf i _ => some (.lf, i.toNat)
  | .nextSc i => some (.sc, i.toNat)
  | .nextTr i => some (.tr, i.toNat)
  | .nextLf i => some (.lf, i.toNat)
  | .rdblSc i => some (.sc, i.toNat)
  | .rdblTr i => some (.tr, i.toNat)
  | .rdblLf i => some (.lf, i.toNat)
  | .rrangeSc i _ _ => some (.sc, i.toNat)
  | .rrangeTr i _ _ => some (.tr, i.toNat)
  | .rrangeLf i _ _ => some (.lf, i.toNat)
  | .rindexSc i _ => some (.sc, i.toNat)
  | .rindexTr i _ => some (.tr, i.toNat)
  | .rindexLf i _ => some (.lf, i.toNat)

/-- Two commands that name no unit in common (R62). -/
def disjointTargets (i j : Instr) : Prop := target i = none ∨ target j = none ∨ target i ≠ target j

/-- The units outside `x` are the same in `s` and `t`: every unit of every bank but the one `x` names, and the banks'
lengths. -/
def sameOutside (x : Option (Kind × Nat)) (s t : State) : Prop :=
  (t.scg.length = s.scg.length ∧ ∀ j, x ≠ some (.sc, j) → t.scg[j]? = s.scg[j]?) ∧
  (t.trg.length = s.trg.length ∧ ∀ j, x ≠ some (.tr, j) → t.trg[j]? = s.trg[j]?) ∧
  (t.lfg.length = s.lfg.length ∧ ∀ j, x ≠ some (.lf, j) → t.lfg[j]? = s.lfg[j]?)

/-- Everything that is no generator unit and no phase is the same: the parameters, the held frame, the host's side. -/
def sameFixed (s t : State) : Prop := t.cfg = s.cfg ∧ t.port = s.port ∧ t.host = s.host

/-! ## States that differ only in unspecified values (R38) -/

/-- Two SCG units that agree where the spec gives a value: `seeded` and `core[0..3]` always, everything when seeded. -/
def scgAgree (g h : Scg) : Prop :=
  g.seeded = h.seeded ∧ (g.seeded = true → g = h) ∧ ∀ k : Fin 4, g.core[k.val] = h.core[k.val]

/-- Two TRG units that agree where the spec gives a value. -/
def trgAgree (g h : Trg) : Prop := g.seeded = h.seeded ∧ (g.seeded = true → g = h)

/-- Two LFG units that agree where the spec gives a value. -/
def lfgAgree (g h : Lfg) : Prop := g.seeded = h.seeded ∧ (g.seeded = true → g = h)

/-- Two states that differ at most in the values R38 leaves unspecified. -/
structure State.Agree (s t : State) : Prop where
  cfg : s.cfg = t.cfg
  phase : s.phase = t.phase
  port : s.port = t.port
  host : s.host = t.host
  scg : List.Forall₂ scgAgree s.scg t.scg
  trg : List.Forall₂ trgAgree s.trg t.trg
  lfg : List.Forall₂ lfgAgree s.lfg t.lfg

/-- Two outcomes of a step of the same kind, with the same reason or with next states that agree. -/
def outcomesAgree : Result → Result → Prop
  | .next a, .next b => a.Agree b
  | .fault x, .fault y => x = y
  | .refused x, .refused y => x = y
  | _, _ => False

end Sys2Proof.Machine
end

