-- ==== Sys2Proof/Certificates/Slice0/Obligations.lean ====
section
/-!
DEFINITION. The statements for the provers. Each docstring names the rules of spec/ it rests on. Where a statement rests
on a choice of the model or on an inference the spec marks as its own, the docstring says so.
-/

open Sys2Proof Sys2Proof.Machine

/-! ## Decoding and encoding (spec/30_encoding.md) -/

/-- R71, R76, R79, R84: the frame of a well-formed command, on a port that takes its length, decodes to that command,
whatever its operands. -/
def Obligations.EncodedCommandDecodes : Prop :=
  ∀ (m : Option Nat) (i : Instr), i.wellFormed = true → overlong m (encode i) = false → decode m (encode i) = .ok i

/-- R71, R76, R82, R84: a frame that decodes is the encoding of the well-formed command it decodes to, so each accepted
frame has one meaning and no bit of it is dropped. -/
def Obligations.DecodedFrameIsItsEncoding : Prop :=
  ∀ (m : Option Nat) (f : Frame) (i : Instr), decode m f = .ok i →
    i.wellFormed = true ∧ encode i = f ∧ overlong m f = false

/-- R82: frames written out from the header patterns of R82 decode to the commands they stand for (one of each class). -/
def Obligations.SampleFramesDecode : Prop :=
  decode none [0x01000009, 0x00000001, 0x00000001, 0xFCFDECC1] = .ok (.hash 9 1 [0xFCFDECC1]) ∧
  decode none [0x11050000, 0x00000000] = .ok (.seedTr 5 []) ∧
  decode none [0x20070000] = .ok (.nextSc 7) ∧
  decode none [0x32FF0000] = .ok (.rdblLf 255) ∧
  decode none [0x42000000, 0x80000000, 0xFFFFFFFF, 0x7FFFFFFF, 0x00000000] =
    .ok (.rrangeLf 0 0xFFFFFFFF80000000 0x000000007FFFFFFF) ∧
  decode none [0x51000000, 0x0000000A, 0x00000000] = .ok (.rindexTr 0 10)

/-- R82: a header has an assigned OPC and no reserved bit exactly when it meets one of the two masks of R82. -/
def Obligations.HeaderMasksOfTheOpcodeMap : Prop :=
  ∀ (h : Word) (op : Opcode),
    (opcodeOf (opcField h) = some op ∧ h &&& reservedMask op = 0) ↔
      h &&& (if op = .hash then 0xFFFFFFE0 else 0xFF00FFFF) = BitVec.ofNat 32 ((opcOf op).toNat * 2 ^ 24)

/-- R83, R242: ILLEGAL_OPCODE is the answer exactly to a frame whose OPC is none of the sixteen, and the frame has no
other effect. -/
def Obligations.UnassignedOpcodeIsIllegal : Prop :=
  ∀ (s : State) (h : Word) (rest : List Word),
    (decode s.cfg.maxFrameWords (h :: rest) = .error .illegalOpcode ↔
      h.toNat / 2 ^ 24 ∉ [0x01, 0x10, 0x11, 0x12, 0x20, 0x21, 0x22, 0x30, 0x31, 0x32, 0x40, 0x41, 0x42, 0x50, 0x51, 0x52]) ∧
    (h.toNat / 2 ^ 24 ∉ [0x01, 0x10, 0x11, 0x12, 0x20, 0x21, 0x22, 0x30, 0x31, 0x32, 0x40, 0x41, 0x42, 0x50, 0x51, 0x52] →
      runFrame (h :: rest) s = .next (s.setPhase (.done [0x02])))

/-- R75, R243: on an assigned OPC, RESERVED_FIELD is the answer exactly when a reserved header bit is 1: bits 15:5 for
every opcode, 23:16 for HASH, 4:0 for every opcode except HASH. -/
def Obligations.ReservedBitEndsTheCommand : Prop :=
  ∀ (s : State) (h : Word) (rest : List Word) (op : Opcode), opcodeOf (opcField h) = some op →
    ((∃ b, h.getLsbD b = true ∧
        ((5 ≤ b ∧ b ≤ 15) ∨ (op = .hash ∧ 16 ≤ b ∧ b ≤ 23) ∨ (op ≠ .hash ∧ b ≤ 4))) ↔
      decode s.cfg.maxFrameWords (h :: rest) = .error .reservedField) ∧
    (decode s.cfg.maxFrameWords (h :: rest) = .error .reservedField →
      runFrame (h :: rest) s = .next (s.setPhase (.done [0x03])))

/-- R241: FRAME_ERROR is the answer to the empty frame, and to a frame with an assigned OPC and no reserved bit set
exactly when its length is not the one R84 computes (or R84 cannot compute one) or exceeds MAX_FRAME_WORDS. -/
def Obligations.WrongLengthIsFrameError : Prop :=
  ∀ (s : State),
    runFrame [] s = .next (s.setPhase (.done [0x01])) ∧
    ∀ (h : Word) (rest : List Word) (op : Opcode), opcodeOf (opcField h) = some op → h &&& reservedMask op = 0 →
      ((frameLength (formatOf op) (h :: rest)[1]? ≠ some (h :: rest).length ∨
          ∃ m, s.cfg.maxFrameWords = some m ∧ m < (h :: rest).length) ↔
        decode s.cfg.maxFrameWords (h :: rest) = .error .frameError) ∧
      (decode s.cfg.maxFrameWords (h :: rest) = .error .frameError →
        runFrame (h :: rest) s = .next (s.setPhase (.done [0x01])))

/-- R77: SEED1.K #i, v has the frame of SEED.K #i with the one seed word v, and RBYTE.K #i that of RRANGE.K #i, 0, 255;
both decode to those commands. -/
def Obligations.PseudoCommandsExpand : Prop :=
  ∀ (k : Kind) (inst : BitVec 8) (v : Word),
    (seed1 k inst v).operandWords = [1, v] ∧ decode none (encode (seed1 k inst v)) = .ok (seedInstr inst [v] k) ∧
    (rbyte k inst).operandWords = [0, 0, 255, 0] ∧ decode none (encode (rbyte k inst)) = .ok (rrangeInstr inst 0 255 k)

/-! ## Steps, the port and reset (spec/70_reset_and_hazards.md) -/

/-- R283: on the sequencer's turn, a step of a state that is BUSY with a frame runs exactly the command the frame
decodes to. R285, R141: a step of a state inside a draw loop is the loop's next micro-step: one production, after which
an accepted word ends the command with its result and a rejected one leaves the sequencer in the same loop. Either step
adds nothing but using up the host's `wait` (the model's own, log 1). -/
def Obligations.StepRunsTheDecodedCommand : Prop :=
  ∀ (s : State), hostMove s = none →
    (∀ (f : Frame) (i : Instr), s.phase = .busy f → decode s.cfg.maxFrameWords f = .ok i →
      step s = exec i s.hostWaits) ∧
    ∀ (d : DrawLoop), s.phase = .drawing d →
      step s = drawStep d s.hostWaits ∧
      ∀ (w : Word) (t : State), s.hostWaits.produce d.kind d.inst = some (w, t) →
        step s = .next (if w.toNat < d.bound then
            t.setPhase (.done (0x00 :: rangeWords (rangeResult d.lower d.n d.bound w)))
          else t.setPhase (.drawing d))

/-- R283, R255, R81: a frame turned away by checks 1 to 4 of R251 ends with its status word alone; nothing else of the
block changes. -/
def Obligations.StepEndsARejectedFrame : Prop :=
  ∀ (s : State) (f : Frame) (st : Status), hostMove s = none → s.phase = .busy f →
    decode s.cfg.maxFrameWords f = .error st → step s = .next (s.hostWaits.setPhase (.done [statusWord st]))

/-- R283, R284: a frame submitted in IDLE is accepted; one submitted in BUSY or DONE is held by the port, which holds
one, and the sequencer accepts it when it is back in IDLE; with no frame it stays as it is (R263). That a host whose
submission finds the port full has to wait is the model's choice (log 2). -/
def Obligations.PortHoldsFramesUntilIdle : Prop :=
  ∀ (s : State) (f : Frame) (rest : List HostEvent),
    (s.host.script = .submit f :: rest → s.port = none → s.phase = .idle →
      step s = .next ((s.withScript rest).setPhase (.busy f))) ∧
    (s.host.script = .submit f :: rest → s.port = none → s.phase ≠ .idle →
      step s = .next ((s.withScript rest).setPort (some f))) ∧
    (s.host.script = .submit f :: rest → s.port ≠ none → step s = sequencerStep s) ∧
    (hostMove s = none → s.phase = .idle → s.port = some f →
      step s = .next ((s.hostWaits.setPhase (.busy f)).setPort none)) ∧
    (hostMove s = none → s.phase = .idle → s.port = none → step s = .next s.hostWaits)

/-- R283: a response waits until the host reads it; then it is delivered, whole, and the sequencer is IDLE. -/
def Obligations.ResponseWaitsForTheHost : Prop :=
  ∀ (s : State) (r : Frame) (rest : List HostEvent), s.phase = .done r →
    (hostMove s = none → step s = .next s.hostWaits) ∧
    (s.host.script = .read :: rest →
      ∃ t, step s = .next t ∧ t.phase = .idle ∧ t.host.received = s.host.received ++ [r] ∧ t.host.script = rest ∧
        t.cfg = s.cfg ∧ t.scg = s.scg ∧ t.trg = s.trg ∧ t.lfg = s.lfg ∧ t.port = s.port)

/-- R283 ("Every accepted frame produces exactly one response"): in every step that is no reset, the responses delivered
and the one command not yet answered change by one together exactly when a frame is accepted. -/
def Obligations.OneResponseForEachAcceptedFrame : Prop :=
  ∀ (s t : State), (∀ c rest, s.host.script ≠ .reset c :: rest) → step s = .next t →
    t.host.received.length + (if t.phase = .idle then 0 else 1) =
      s.host.received.length + (if s.phase = .idle then 0 else 1) +
        (if s.phase = .idle ∧ t.phase ≠ .idle then 1 else 0)

/-- R281, R280: whatever the block is doing, a reset with a legal configuration leaves the sequencer IDLE with every
unit unseeded, the constants in core[0..3] and the banks of the sizes the configuration gives; no response is
delivered. -/
def Obligations.ResetAbandonsTheCommand : Prop :=
  ∀ (s : State) (c : Config) (rest : List HostEvent), s.host.script = .reset c :: rest → c.legal = true →
    ∃ t, step s = .next t ∧ t.phase = .idle ∧ t.cfg = c ∧
      t.host.received = s.host.received ∧ t.host.script = rest ∧
      (∀ k, t.num k = unitCount c k) ∧ (∀ k i, t.isSeeded k i = false) ∧
      (∀ (i : Nat) (g : Scg), t.scg[i]? = some g → ∀ k : Fin 4, g.core[k.val] = c.scConst[k.val])

/-- R176, D13: a reset that brings an SC_ROUNDS of some unit that is no multiple of 4, or is below 4, is refused. That a
reset which brings a number of units outside 1 to 256 is refused too is the model's choice (log 5, DEDUCED): R7 and D12
give that range and speak of no refusal. -/
def Obligations.IllegalConfigurationIsRefused : Prop :=
  ∀ (s : State) (c : Config) (rest : List HostEvent), s.host.script = .reset c :: rest →
    ((∃ r ∈ c.scRounds, r < 4 ∨ r % 4 ≠ 0) ∨ (∃ k, unitCount c k = 0 ∨ 256 < unitCount c k)) →
      step s = .refused (.illegalConfig c)

/-- R280, R38: right after reset the sequencer is IDLE, every unit is unseeded, every core[0..3] holds the four words of
R170, and there is one unit of each kind (R7's default). -/
def Obligations.ResetState : Prop :=
  State.reset.phase = .idle ∧ (∀ k, State.reset.num k = 1) ∧ (∀ k i, State.reset.isSeeded k i = false) ∧
  ∀ (i : Nat) (g : Scg), State.reset.scg[i]? = some g →
    g.core[0] = 0x61707865 ∧ g.core[1] = 0x3320646E ∧ g.core[2] = 0x79622D32 ∧ g.core[3] = 0x6B206574

/-- R280: the parameters do not change in any step that is no reset. -/
def Obligations.ParametersFixedBetweenResets : Prop :=
  ∀ (s t : State), (∀ c rest, s.host.script ≠ .reset c :: rest) → step s = .next t → t.cfg = s.cfg

/-! ## The sponge (spec/40_sponge.md) -/

/-- R102: the padded buffer has (⌊L / r⌋ + 1) * r words: the input, then a word 1, then zeros, with the top bit of the
last word flipped. -/
def Obligations.PaddingLayout : Prop :=
  ∀ (input : List Word) (r : Nat), 1 ≤ r →
    (pad input r).length = (input.length / r + 1) * r ∧
    ∀ k, k < (input.length / r + 1) * r →
      (pad input r)[k]? = some
        ((if k < input.length then input.getD k 0 else if k = input.length then 1 else 0) ^^^
          (if k + 1 = (input.length / r + 1) * r then 0x80000000 else 0))

/-- R103: absorbing one block of r words from offset 0 XORs them into the first r state words, applies P800 once and
comes back to offset 0. -/
def Obligations.AbsorbOneBlock : Prop :=
  ∀ (r : Nat) (blk : List Word) (a : Lanes), 1 ≤ r → r ≤ 25 → blk.length = r →
    blk.foldl (absorbWord r) ⟨a, 0⟩ = ⟨P800 (Vector.ofFn fun i : Fin 25 => a[i] ^^^ blk.getD i.val 0), 0⟩

/-- R104 (a consequence the spec marks as derived from its loop): output word j is word j mod r of the state after
⌊j / r⌋ more applications of P800. -/
def Obligations.SqueezedWord : Prop :=
  ∀ (a : Lanes) (r m j : Nat), 1 ≤ r → r ≤ 25 → j < m →
    (squeeze r m ⟨a, 0⟩)[j]? = ((P800^[j / r]) a)[j % r]?

/-- R113 (a consequence the spec marks as derived): a shorter output is the beginning of a longer one. -/
def Obligations.ShorterOutputBeginsLonger : Prop :=
  ∀ (input : List Word) (r m m' : Nat), m ≤ m' → spongeHash input m r = (spongeHash input m' r).take m

/-- R108 with R107 (general knowledge confirmed by the source's vectors, as the spec says): rho and pi move the rotated
word at (x, y) to (y, 2x + 3y). -/
def Obligations.RhoPiMovesWords : Prop :=
  ∀ (a : Lanes) (x y : Fin 5),
    laneAt (rhopi a) y (2 * x + 3 * y) = rotl32 (laneAt a x y) rotAmounts[laneIndex x y]

/-- R106, R109, R110 (general knowledge confirmed by the source's vectors, as the spec says): the words theta, chi and
iota give at column x and row y. -/
def Obligations.ThetaChiIotaWords : Prop :=
  ∀ (a : Lanes) (rc : Word) (par : Fin 5 → Word) (x y : Fin 5),
    (∀ z, par z = laneAt a z 0 ^^^ laneAt a z 1 ^^^ laneAt a z 2 ^^^ laneAt a z 3 ^^^ laneAt a z 4) →
    laneAt (theta a) x y = laneAt a x y ^^^ (par (x + 4) ^^^ rotl32 (par (x + 1)) 1) ∧
    laneAt (chi a) x y = laneAt a x y ^^^ (~~~ laneAt a (x + 1) y &&& laneAt a (x + 2) y) ∧
    laneAt (iota a rc) x y = if x = 0 ∧ y = 0 then laneAt a 0 0 ^^^ rc else laneAt a x y

/-- R115, R81: HASH with a rate from 1 to 25 completes: the response is OK and the M words of SpongeHash, and nothing
else changes. -/
def Obligations.HashCompletes : Prop :=
  ∀ (rate : BitVec 5) (outCount : Word) (input : List Word) (s : State), 1 ≤ rate.toNat → rate.toNat ≤ 25 →
    exec (.hash rate outCount input) s =
      .next (s.setPhase (.done (0x00 :: spongeHash input outCount.toNat rate.toNat))) ∧
    (spongeHash input outCount.toNat rate.toNat).length = outCount.toNat

/-- R245: HASH with rate 0 or above 25 ends with INVALID_RATE and writes nothing. -/
def Obligations.BadRateIsInvalid : Prop :=
  ∀ (rate : BitVec 5) (outCount : Word) (input : List Word) (s : State), rate.toNat = 0 ∨ 25 < rate.toNat →
    exec (.hash rate outCount input) s = .next (s.setPhase (.done [0x05]))

/-! ## Seeding (spec/41_base_contract.md) -/

/-- R134, R171: SEED.SC completes and leaves the key and nonce words of SpongeHash(w, 10, 17) in core[4..13], zero in
core[14..15], core[0..3] as they were, the block of that core in `out`, 16 remaining and the unit seeded. -/
def Obligations.SeedScCompletes : Prop :=
  ∀ (inst : BitVec 8) (w : List Word) (s : State) (g : Scg), s.scg[inst.toNat]? = some g →
    ∃ h : Scg,
      exec (.seedSc inst w) s = .next ((s.setScg (s.scg.set inst.toNat h)).setPhase (.done [0x00])) ∧
      (∀ k : Fin 16, h.core[k] =
        if k.val < 4 then g.core[k] else if k.val < 14 then (spongeHash w 10 17).getD (k.val - 4) 0 else 0) ∧
      h.out = scBlock (s.cfg.roundsOf inst.toNat) h.core ∧ h.remaining.val = 16 ∧ h.seeded = true

/-- R135, R200: SEED.TR completes and leaves the 32 words of SpongeHash(w, 32, 17) in V with the low bit of V[0] forced
to 1, idx 0 and the unit seeded. -/
def Obligations.SeedTrCompletes : Prop :=
  ∀ (inst : BitVec 8) (w : List Word) (s : State), inst.toNat < s.trg.length →
    ∃ h : Trg,
      exec (.seedTr inst w) s = .next ((s.setTrg (s.trg.set inst.toNat h)).setPhase (.done [0x00])) ∧
      (∀ k : Fin 32, h.v[k] =
        if k = 0 then (spongeHash w 32 17).getD 0 0 ||| 1 else (spongeHash w 32 17).getD k.val 0) ∧
      h.idx = 0 ∧ h.seeded = true

/-- R136, R220: SEED.LF completes and leaves the 256 words of SpongeHash(w, 256, 17) in V with the low bit of V[0]
forced to 1, idx 0 and the unit seeded. -/
def Obligations.SeedLfCompletes : Prop :=
  ∀ (inst : BitVec 8) (w : List Word) (s : State), inst.toNat < s.lfg.length →
    ∃ h : Lfg,
      exec (.seedLf inst w) s = .next ((s.setLfg (s.lfg.set inst.toNat h)).setPhase (.done [0x00])) ∧
      (∀ k : Fin 256, h.v[k] =
        if k = 0 then (spongeHash w 256 17).getD 0 0 ||| 1 else (spongeHash w 256 17).getD k.val 0) ∧
      h.idx = 0 ∧ h.seeded = true

/-- R137: after SEED.K the unit depends on the seed words alone: two blocks with the same parameters, whose units agree
on the constants core[0..3], hold equal units after the same SEED, whatever the units held before. -/
def Obligations.SeedingForgetsTheOldState : Prop :=
  ∀ (inst : BitVec 8) (w : List Word) (s t s' t' : State), s.cfg = t.cfg →
    (exec (.seedSc inst w) s = .next s' → exec (.seedSc inst w) t = .next t' →
      ∀ (g h : Scg), s.scg[inst.toNat]? = some g → t.scg[inst.toNat]? = some h →
        (∀ k : Fin 4, g.core[k.val] = h.core[k.val]) → s'.scg[inst.toNat]? = t'.scg[inst.toNat]?) ∧
    (exec (.seedTr inst w) s = .next s' → exec (.seedTr inst w) t = .next t' →
      inst.toNat < s.trg.length → inst.toNat < t.trg.length → s'.trg[inst.toNat]? = t'.trg[inst.toNat]?) ∧
    (exec (.seedLf inst w) s = .next s' → exec (.seedLf inst w) t = .next t' →
      inst.toNat < s.lfg.length → inst.toNat < t.lfg.length → s'.lfg[inst.toNat]? = t'.lfg[inst.toNat]?)

/-! ## The generators (spec/42_stream_cipher.md, 43_tempered.md, 44_lagged_fib.md) -/

/-- R180 (Produce_SC), R181: NEXT.SC on a seeded unit completes. With words left it returns out[16 - remaining] and
lowers `remaining`; with none it first increments the counter and recomputes the block, and returns its word 0. That
out[16 - remaining] is the next unconsumed word is marked by R180 as the spec's choice (D16; log 14). -/
def Obligations.NextScCompletes : Prop :=
  ∀ (inst : BitVec 8) (s : State) (g : Scg), s.scg[inst.toNat]? = some g → g.seeded = true →
    (0 < g.remaining.val → ∃ h : Scg,
      exec (.nextSc inst) s = .next ((s.setScg (s.scg.set inst.toNat h)).setPhase
        (.done [0x00, g.out.toList.getD (16 - g.remaining.val) 0])) ∧
      h.core = g.core ∧ h.out = g.out ∧ h.remaining.val + 1 = g.remaining.val ∧ h.seeded = true) ∧
    (g.remaining.val = 0 → ∃ h : Scg,
      exec (.nextSc inst) s = .next ((s.setScg (s.scg.set inst.toNat h)).setPhase (.done [0x00, h.out[0]])) ∧
      h.core = scIncrement s.cfg.scCounterTop g.core ∧ h.out = scBlock (s.cfg.roundsOf inst.toNat) h.core ∧
      h.remaining.val = 15 ∧ h.seeded = true)

/-- R175: SCIncrement adds 1 to the counter, mod 2^128 with the top at 12 and mod 2^384 with the top at 4, and leaves the
words below the top unchanged. -/
def Obligations.CounterIncrementAddsOne : Prop :=
  ∀ (core : Block),
    counterValue (counterLimbs .pos12) (scIncrement .pos12 core) =
      (counterValue (counterLimbs .pos12) core + 1) % 2 ^ 128 ∧
    (∀ k : Fin 16, k.val < 12 → (scIncrement .pos12 core)[k] = core[k]) ∧
    counterValue (counterLimbs .pos4) (scIncrement .pos4 core) =
      (counterValue (counterLimbs .pos4) core + 1) % 2 ^ 384 ∧
    (∀ k : Fin 16, k.val < 4 → (scIncrement .pos4 core)[k] = core[k])

/-- R179 (which the spec marks as derived): with the top at 12 the block inputs repeat after exactly 2^128 increments,
and with the top at 4 after exactly 2^384. -/
def Obligations.CounterPeriod : Prop :=
  ∀ (core : Block) (n : Nat),
    ((scIncrement .pos12)^[n] core = core ↔ n % 2 ^ 128 = 0) ∧
    ((scIncrement .pos4)^[n] core = core ↔ n % 2 ^ 384 = 0)

/-- R173: quarter-rounds on disjoint positions may be done in either order. -/
def Obligations.DisjointQuarterRoundsCommute : Prop :=
  ∀ (a b c d a' b' c' d' : Fin 16) (x : Block), [a, b, c, d, a', b', c', d'].Nodup →
    quarterRound a b c d (quarterRound a' b' c' d' x) = quarterRound a' b' c' d' (quarterRound a b c d x)

/-- R207, R206 (its index step is an inference the spec marks as its own, C5; its operators are D20): NEXT.TR on a seeded
unit completes; the word, the two words written and the new index are those of the recurrence. -/
def Obligations.NextTrCompletes : Prop :=
  ∀ (inst : BitVec 8) (s : State) (g : Trg), s.trg[inst.toNat]? = some g → g.seeded = true →
    ∃ (w : Word) (h : Trg) (z0 z1 z2 t a b : Word),
      z0 = g.v[g.idx + 31] ∧ t = g.v[g.idx + 3] ∧ z1 = g.v[g.idx] ^^^ t ^^^ (t >>> 8) ∧
      a = g.v[g.idx + 24] ∧ b = g.v[g.idx + 10] ∧ z2 = (a ^^^ (a <<< 19)) ^^^ (b ^^^ (b <<< 14)) ∧
      w = z0 ^^^ (z0 <<< 11) ^^^ z1 ^^^ (z1 <<< 7) ^^^ z2 ^^^ (z2 <<< 13) ∧
      exec (.nextTr inst) s = .next ((s.setTrg (s.trg.set inst.toNat h)).setPhase (.done [0x00, w])) ∧
      h.idx.val = (g.idx.val + 31) % 32 ∧ h.seeded = true ∧
      ∀ k : Fin 32, h.v[k] = if k = g.idx + 31 then w else if k = g.idx then z1 ^^^ z2 else g.v[k]

/-- R226, R227: NEXT.LF on a seeded unit completes; the word is the sum mod 2^32 of the four taps, written at idx, and
the index moves up by one mod 256. -/
def Obligations.NextLfCompletes : Prop :=
  ∀ (inst : BitVec 8) (s : State) (g : Lfg), s.lfg[inst.toNat]? = some g → g.seeded = true →
    ∃ (w : Word) (h : Lfg),
      w.toNat = (g.v[g.idx].toNat + g.v[g.idx + 201].toNat + g.v[g.idx + 137].toNat + g.v[g.idx + 77].toNat) % 2 ^ 32 ∧
      exec (.nextLf inst) s = .next ((s.setLfg (s.lfg.set inst.toNat h)).setPhase (.done [0x00, w])) ∧
      h.idx.val = (g.idx.val + 1) % 256 ∧ h.seeded = true ∧
      ∀ k : Fin 256, h.v[k] = if k = g.idx then w else g.v[k]

/-! ## Doubles and ranged integers (spec/41_base_contract.md) -/

/-- R143 to R145: RDBL.K on a seeded unit completes: one production, and the two words of the binary64 of its word, low
word first. -/
def Obligations.RdblCompletes : Prop :=
  ∀ (k : Kind) (inst : BitVec 8) (s : State), s.isSeeded k inst.toNat = true →
    ∃ (w : Word) (t : State), s.produce k inst.toNat = some (w, t) ∧
      exec (rdblInstr inst k) s =
        .next (t.setPhase (.done
          [0x00, (binary64 w.toNat).extractLsb' 0 32, (binary64 w.toNat).extractLsb' 32 32]))

/-- R138, R139 (the layout is general knowledge, as the spec says): the encoding has sign 0; it is 0 for the word 0, and
otherwise a normal number whose exact value is u32(w) * 2^-32. -/
def Obligations.DoubleIsExact : Prop :=
  ∀ (w : Word) (d : BitVec 64) (e f : Nat), d = binary64 w.toNat →
    e = d.toNat / 2 ^ 52 % 2 ^ 11 → f = d.toNat % 2 ^ 52 →
    d.getLsbD 63 = false ∧ (w = 0 → d = 0) ∧
    (w ≠ 0 → 991 ≤ e ∧ e ≤ 1022 ∧
      (1 + (f : ℚ) / 2 ^ 52) * (2 : ℚ) ^ ((e : ℤ) - 1023) = (w.toNat : ℚ) * (2 : ℚ) ^ (-32 : ℤ))

/-- R140: bound(n) is the largest multiple of n not greater than 2^32, it is above 2^31, and it is 2^32 for a power of
two. -/
def Obligations.BoundIsTheLargestMultiple : Prop :=
  ∀ n : Nat, 1 ≤ n → n ≤ 2 ^ 32 →
    n ∣ rangeBound n ∧ rangeBound n ≤ 2 ^ 32 ∧ (∀ m, n ∣ m → m ≤ 2 ^ 32 → m ≤ rangeBound n) ∧
    2 ^ 31 < rangeBound n ∧ (∀ e, n = 2 ^ e → rangeBound n = 2 ^ 32)

/-- R142 (which the spec marks as derived): for an accepted word the offset is a division by k = ⌊2^32 / n⌋, and the
product n * u32(w) is below 2^64. -/
def Obligations.OffsetIsADivision : Prop :=
  ∀ (n : Nat) (w : Word), 1 ≤ n → n ≤ 2 ^ 32 → w.toNat < rangeBound n →
    rangeBound n / n = 2 ^ 32 / n ∧ n * w.toNat / rangeBound n = w.toNat / (2 ^ 32 / n) ∧ n * w.toNat < 2 ^ 64

/-- R153 (which the spec marks as derived): every accepted word's result lies in the range, and every value of the range
has exactly k = ⌊2^32 / n⌋ accepted words. -/
def Obligations.RangeIsExactlyUniform : Prop :=
  ∀ (n : Nat) (lower : Int), 1 ≤ n → n ≤ 2 ^ 32 →
    (∀ w : Word, w.toNat < rangeBound n →
      lower ≤ rangeResult lower n (rangeBound n) w ∧ rangeResult lower n (rangeBound n) w ≤ lower + n - 1) ∧
    ∀ j, j < n →
      ((Finset.range (2 ^ 32)).filter fun v => v < rangeBound n ∧ n * v / rangeBound n = j).card = 2 ^ 32 / n

/-- R141, R146 to R148: RRANGE.K on a seeded unit with lower ≤ upper and at most 2^32 values, whose first word is below
the bound, completes with lower + ⌊n * u32(w) / bound⌋ as two words, low word first, after that one production. -/
def Obligations.RrangeCompletes : Prop :=
  ∀ (k : Kind) (inst : BitVec 8) (lower upper : BitVec 64) (s t : State) (w : Word) (n : Nat) (r : Int),
    s.isSeeded k inst.toNat = true → lower.toInt ≤ upper.toInt → (n : Int) = upper.toInt - lower.toInt + 1 →
    n ≤ 2 ^ 32 → s.produce k inst.toNat = some (w, t) → w.toNat < 2 ^ 32 - 2 ^ 32 % n →
    r = lower.toInt + (n * w.toNat / (2 ^ 32 - 2 ^ 32 % n) : Nat) →
    exec (rrangeInstr inst lower upper k) s =
      .next (t.setPhase (.done [0x00, BitVec.ofInt 32 r, BitVec.ofInt 32 (r / 2 ^ 32)]))

/-- R149 to R151, R141: RINDEX.K on a seeded unit with 1 ≤ count ≤ 2^32, whose first word is below the bound, completes
with ⌊count * u32(w) / bound⌋, which is below count. -/
def Obligations.RindexCompletes : Prop :=
  ∀ (k : Kind) (inst : BitVec 8) (count : BitVec 64) (s t : State) (w : Word) (n v : Nat),
    s.isSeeded k inst.toNat = true → count.toInt = n → 1 ≤ n → n ≤ 2 ^ 32 →
    s.produce k inst.toNat = some (w, t) → w.toNat < 2 ^ 32 - 2 ^ 32 % n →
    v = n * w.toNat / (2 ^ 32 - 2 ^ 32 % n) →
    exec (rindexInstr inst count k) s = .next (t.setPhase (.done [0x00, BitVec.ofNat 32 v, 0])) ∧ v < n

/-- R149 to R151: RINDEX.K with a count that is not negative is RRANGE.K from 0 to count - 1 (R247: also for count 0). -/
def Obligations.RindexDelegatesToRrange : Prop :=
  ∀ (k : Kind) (inst : BitVec 8) (count : BitVec 64) (s : State), 0 ≤ count.toInt →
    exec (rindexInstr inst count k) s = exec (rrangeInstr inst 0 (count - 1) k) s

/-- R141, R285: a word at or above the bound is consumed and leaves the command in its draw loop, whose next micro-step
draws again (that the first draw is made with the checks, in one step, is the model's choice, log 9). -/
def Obligations.RejectedWordStaysInTheLoop : Prop :=
  ∀ (k : Kind) (inst : BitVec 8) (lower upper : BitVec 64) (s t : State) (w : Word) (n : Nat),
    s.isSeeded k inst.toNat = true → lower.toInt ≤ upper.toInt → (n : Int) = upper.toInt - lower.toInt + 1 →
    n ≤ 2 ^ 32 → s.produce k inst.toNat = some (w, t) → 2 ^ 32 - 2 ^ 32 % n ≤ w.toNat →
    exec (rrangeInstr inst lower upper k) s =
      .next (t.setPhase (.drawing ⟨k, inst.toNat, lower.toInt, n, 2 ^ 32 - 2 ^ 32 % n⟩))

/-- R141, R285: RRANGE.K ends at the first accepted word, however many words it rejects before: if words 0 to j - 1 of
the unit's stream are at or above the bound and word j is below it, the command completes with the result of word j and
the unit advanced by j + 1 productions. -/
def Obligations.DrawLoopEndsAtTheFirstAcceptedWord : Prop :=
  ∀ (k : Kind) (inst : BitVec 8) (lower upper : BitVec 64) (s : State) (n j : Nat) (w : Word),
    s.isSeeded k inst.toNat = true → lower.toInt ≤ upper.toInt → (n : Int) = upper.toInt - lower.toInt + 1 →
    n ≤ 2 ^ 32 →
    (∀ m, m < j → ∀ v, s.drawnWord k inst.toNat m = some v → rangeBound n ≤ v.toNat) →
    s.drawnWord k inst.toNat j = some w → w.toNat < rangeBound n →
    ∃ t, s.afterDraws k inst.toNat (j + 1) = some t ∧
      Completes (rrangeInstr inst lower upper k) s
        (0x00 :: rangeWords (rangeResult lower.toInt n (rangeBound n) w))
        (t.setPhase (.done (0x00 :: rangeWords (rangeResult lower.toInt n (rangeBound n) w))))

/-! ## Errors (spec/60_exceptions.md) -/

/-- R251: a frame that fails one of the ten checks ends with the status of the first one it fails and writes nothing
else; a frame that fails none ends with OK or goes into its draw loop. The checks (`frameChecks`) are a list of their own
on the frame's words, but checks 2 to 4 share `opcodeOf`, `reservedMask`, `formatOf`, `frameLength` and `overlong` with
the decoder, so an error in one of these would show on both sides; other statements hold these to the spec. -/
def Obligations.FirstFailingCheckDecides : Prop :=
  ∀ (s : State) (f : Frame),
    (∀ st, firstError s f = some st → runFrame f s = .next (s.setPhase (.done [statusWord st]))) ∧
    (firstError s f = none →
      ∃ t, runFrame f s = .next t ∧ ((∃ results, t.phase = .done (0x00 :: results)) ∨ ∃ d, t.phase = .drawing d))

/-- R244: a generator command ends with BAD_INSTANCE exactly when INST ≥ NUM_K. -/
def Obligations.BadInstanceExactlyPastTheBank : Prop :=
  ∀ (i : Instr) (k : Kind) (n : Nat) (s : State), s.Inv → target i = some (k, n) →
    (exec i s = .next (s.setPhase (.done [0x04])) ↔ unitCount s.cfg k ≤ n)

/-- R246, R247, R248: the argument errors of RRANGE and RINDEX, on a unit of the bank, seeded or not: a negative count is
INVALID_COUNT, a zero count and lower > upper are INVALID_RANGE, more than 2^32 values are RANGE_TOO_WIDE. -/
def Obligations.ArgumentErrorsOfRangeCommands : Prop :=
  ∀ (k : Kind) (inst : BitVec 8) (lower upper count : BitVec 64) (s : State), inst.toNat < s.num k →
    (count.toInt < 0 → exec (rindexInstr inst count k) s = .next (s.setPhase (.done [0x06]))) ∧
    (count = 0 → exec (rindexInstr inst count k) s = .next (s.setPhase (.done [0x07]))) ∧
    (2 ^ 32 < count.toInt → exec (rindexInstr inst count k) s = .next (s.setPhase (.done [0x08]))) ∧
    (upper.toInt < lower.toInt →
      exec (rrangeInstr inst lower upper k) s = .next (s.setPhase (.done [0x07]))) ∧
    (2 ^ 32 < upper.toInt - lower.toInt + 1 →
      exec (rrangeInstr inst lower upper k) s = .next (s.setPhase (.done [0x08])))

/-- R249: NEXT, RDBL, and RRANGE and RINDEX with allowed arguments, end with NOT_SEEDED on an unseeded unit of the bank,
and write nothing. -/
def Obligations.UnseededUnitIsNotSeeded : Prop :=
  ∀ (k : Kind) (inst : BitVec 8) (lower upper count : BitVec 64) (s : State), inst.toNat < s.num k →
    s.isSeeded k inst.toNat = false →
    exec (nextInstr inst k) s = .next (s.setPhase (.done [0x09])) ∧
    exec (rdblInstr inst k) s = .next (s.setPhase (.done [0x09])) ∧
    (lower.toInt ≤ upper.toInt → upper.toInt - lower.toInt + 1 ≤ 2 ^ 32 →
      exec (rrangeInstr inst lower upper k) s = .next (s.setPhase (.done [0x09]))) ∧
    (1 ≤ count.toInt → count.toInt ≤ 2 ^ 32 →
      exec (rindexInstr inst count k) s = .next (s.setPhase (.done [0x09])))

/-- R250: a command that ends with a status other than OK writes no state: its response is the status word alone, and
the state is as before but for the response. -/
def Obligations.ErrorsWriteNothing : Prop :=
  ∀ (i : Instr) (s t : State) (c : Word) (rest : List Word),
    exec i s = .next t → t.phase = .done (c :: rest) → c ≠ 0 → rest = [] ∧ t = s.setPhase (.done [c])

/-! ## The whole machine -/

/-- R283, R114: every command on every state answers a next state: an OK or error response, or the draw loop of its own
unit. No command stops the block. -/
def Obligations.EveryCommandAnswers : Prop :=
  ∀ (i : Instr) (s : State), ∃ t, exec i s = .next t ∧
    ((∃ r, t.phase = .done r ∧ responseOk r) ∨ ∃ d, t.phase = .drawing d ∧ target i = some (d.kind, d.inst))

/-- R37, R23 (the frame of every command): whatever its outcome, a command leaves the parameters, the port, the host's
side and every generator unit but the one it names as they were; HASH leaves every unit as it was. -/
def Obligations.CommandFrame : Prop :=
  ∀ (i : Instr) (s t : State), exec i s = .next t → sameFixed s t ∧ sameOutside (target i) s t

/-- R285, R57 (the frame of a micro-step): a draw changes only the unit it draws from, and the phase. -/
def Obligations.DrawFrame : Prop :=
  ∀ (d : DrawLoop) (s t : State), drawStep d s = .next t →
    sameFixed s t ∧ sameOutside (some (d.kind, d.inst)) s t ∧ ∀ k i, t.isSeeded k i = s.isSeeded k i

/-- R22: only SEED commands write a `seeded` bit, and SEED sets it to 1. -/
def Obligations.OnlySeedWritesSeeded : Prop :=
  ∀ (i : Instr) (s t : State), exec i s = .next t →
    ((∀ k, i.opcode ≠ .seed k) → ∀ k j, t.isSeeded k j = s.isSeeded k j) ∧
    (∀ k n, i.opcode = .seed k → target i = some (k, n) → n < s.num k → t.isSeeded k n = true)

/-- R24, R25, R181 (the frame inside an SCG unit): no command writes core[0..3]; a command that is not SEED writes no
word below the counter top (core[4..11] with the top at 12), and while words remain a production writes neither `core`
nor `out`. -/
def Obligations.ScgUnitFrame : Prop :=
  ∀ (i : Instr) (s t : State) (n : Nat) (g h : Scg), exec i s = .next t → s.scg[n]? = some g → t.scg[n]? = some h →
    (∀ k : Fin 16, k.val < 4 → h.core[k] = g.core[k]) ∧
    (i.opcode ≠ .seed .sc → s.cfg.scCounterTop = .pos12 → ∀ k : Fin 16, k.val < 12 → h.core[k] = g.core[k]) ∧
    (i.opcode ≠ .seed .sc → 0 < g.remaining.val → h.core = g.core ∧ h.out = g.out)

/-- R36, R26, R141 (the model's invariant `State.Inv`): every step keeps it. -/
def Obligations.EveryStepKeepsTheInvariant : Prop :=
  ∀ (s t : State), s.Inv → step s = .next t → t.Inv

/-- R36, R38: the invariant holds at reset, with the default parameters and with every legal configuration. -/
def Obligations.InvariantAtReset : Prop :=
  State.reset.Inv ∧ ∀ (c : Config) (h : HostSide), c.legal = true → (State.resetWith c h).Inv

/-- R255, R285: in a state that meets the invariant no step faults, and a step is refused only for a reset with an
illegal configuration (for a number of units outside 1 to 256 the refusal is the model's choice, log 5). -/
def Obligations.StepsNeverStop : Prop :=
  ∀ (s : State), s.Inv →
    (∃ t, step s = .next t) ∨ ∃ c rest, s.host.script = .reset c :: rest ∧ c.legal = false ∧ step s = .refused (.illegalConfig c)

/-- R62 (which the spec marks as derived): two commands that name no common unit give the same responses and the same end
state in either order, draw loops included. -/
def Obligations.CommandsOnDifferentUnitsCommute : Prop :=
  ∀ (i j : Instr) (s s1 s2 : State) (ri rj : Frame), disjointTargets i j →
    Completes i s ri s1 → Completes j s1 rj s2 →
    ∃ t1 t2, Completes j s rj t1 ∧ Completes i t1 ri t2 ∧ t2.setPhase .idle = s2.setPhase .idle

/-- R38: the values it leaves unspecified are unobservable: from two states that differ in nothing else, of which one
meets the invariant, the same step answers the same way and the next states again differ in nothing else. -/
def Obligations.UnspecifiedValuesAreUnobservable : Prop :=
  ∀ (s t : State), s.Inv → s.Agree t → outcomesAgree (step s) (step t)
end

