-- ==== Sys2Proof/Laws/State.lean ====
section
/-!
SUPPORT. What each update of the state leaves in each field. The provers rewrite with these and never unfold an update.
-/

namespace Sys2Proof.Machine

/-! ## setPhase -/

@[simp] theorem setPhase_cfg (p : Phase) (s : State) : (s.setPhase p).cfg = s.cfg := rfl
@[simp] theorem setPhase_scg (p : Phase) (s : State) : (s.setPhase p).scg = s.scg := rfl
@[simp] theorem setPhase_trg (p : Phase) (s : State) : (s.setPhase p).trg = s.trg := rfl
@[simp] theorem setPhase_lfg (p : Phase) (s : State) : (s.setPhase p).lfg = s.lfg := rfl
@[simp] theorem setPhase_phase (p : Phase) (s : State) : (s.setPhase p).phase = p := rfl
@[simp] theorem setPhase_port (p : Phase) (s : State) : (s.setPhase p).port = s.port := rfl
@[simp] theorem setPhase_host (p : Phase) (s : State) : (s.setPhase p).host = s.host := rfl
@[simp] theorem setPhase_setPhase (p p' : Phase) (s : State) : (s.setPhase p).setPhase p' = s.setPhase p' := rfl

/-! ## setScg -/

@[simp] theorem setScg_cfg (b : List Scg) (s : State) : (s.setScg b).cfg = s.cfg := rfl
@[simp] theorem setScg_scg (b : List Scg) (s : State) : (s.setScg b).scg = b := rfl
@[simp] theorem setScg_trg (b : List Scg) (s : State) : (s.setScg b).trg = s.trg := rfl
@[simp] theorem setScg_lfg (b : List Scg) (s : State) : (s.setScg b).lfg = s.lfg := rfl
@[simp] theorem setScg_phase (b : List Scg) (s : State) : (s.setScg b).phase = s.phase := rfl
@[simp] theorem setScg_port (b : List Scg) (s : State) : (s.setScg b).port = s.port := rfl
@[simp] theorem setScg_host (b : List Scg) (s : State) : (s.setScg b).host = s.host := rfl
@[simp] theorem setScg_setScg (b b' : List Scg) (s : State) : (s.setScg b).setScg b' = s.setScg b' := rfl

/-! ## setTrg -/

@[simp] theorem setTrg_cfg (b : List Trg) (s : State) : (s.setTrg b).cfg = s.cfg := rfl
@[simp] theorem setTrg_scg (b : List Trg) (s : State) : (s.setTrg b).scg = s.scg := rfl
@[simp] theorem setTrg_trg (b : List Trg) (s : State) : (s.setTrg b).trg = b := rfl
@[simp] theorem setTrg_lfg (b : List Trg) (s : State) : (s.setTrg b).lfg = s.lfg := rfl
@[simp] theorem setTrg_phase (b : List Trg) (s : State) : (s.setTrg b).phase = s.phase := rfl
@[simp] theorem setTrg_port (b : List Trg) (s : State) : (s.setTrg b).port = s.port := rfl
@[simp] theorem setTrg_host (b : List Trg) (s : State) : (s.setTrg b).host = s.host := rfl
@[simp] theorem setTrg_setTrg (b b' : List Trg) (s : State) : (s.setTrg b).setTrg b' = s.setTrg b' := rfl

/-! ## setLfg -/

@[simp] theorem setLfg_cfg (b : List Lfg) (s : State) : (s.setLfg b).cfg = s.cfg := rfl
@[simp] theorem setLfg_scg (b : List Lfg) (s : State) : (s.setLfg b).scg = s.scg := rfl
@[simp] theorem setLfg_trg (b : List Lfg) (s : State) : (s.setLfg b).trg = s.trg := rfl
@[simp] theorem setLfg_lfg (b : List Lfg) (s : State) : (s.setLfg b).lfg = b := rfl
@[simp] theorem setLfg_phase (b : List Lfg) (s : State) : (s.setLfg b).phase = s.phase := rfl
@[simp] theorem setLfg_port (b : List Lfg) (s : State) : (s.setLfg b).port = s.port := rfl
@[simp] theorem setLfg_host (b : List Lfg) (s : State) : (s.setLfg b).host = s.host := rfl
@[simp] theorem setLfg_setLfg (b b' : List Lfg) (s : State) : (s.setLfg b).setLfg b' = s.setLfg b' := rfl

/-! ## setPort -/

@[simp] theorem setPort_cfg (f : Option Frame) (s : State) : (s.setPort f).cfg = s.cfg := rfl
@[simp] theorem setPort_scg (f : Option Frame) (s : State) : (s.setPort f).scg = s.scg := rfl
@[simp] theorem setPort_trg (f : Option Frame) (s : State) : (s.setPort f).trg = s.trg := rfl
@[simp] theorem setPort_lfg (f : Option Frame) (s : State) : (s.setPort f).lfg = s.lfg := rfl
@[simp] theorem setPort_phase (f : Option Frame) (s : State) : (s.setPort f).phase = s.phase := rfl
@[simp] theorem setPort_port (f : Option Frame) (s : State) : (s.setPort f).port = f := rfl
@[simp] theorem setPort_host (f : Option Frame) (s : State) : (s.setPort f).host = s.host := rfl
@[simp] theorem setPort_setPort (f f' : Option Frame) (s : State) : (s.setPort f).setPort f' = s.setPort f' := rfl

/-! ## setHost -/

@[simp] theorem setHost_cfg (h : HostSide) (s : State) : (s.setHost h).cfg = s.cfg := rfl
@[simp] theorem setHost_scg (h : HostSide) (s : State) : (s.setHost h).scg = s.scg := rfl
@[simp] theorem setHost_trg (h : HostSide) (s : State) : (s.setHost h).trg = s.trg := rfl
@[simp] theorem setHost_lfg (h : HostSide) (s : State) : (s.setHost h).lfg = s.lfg := rfl
@[simp] theorem setHost_phase (h : HostSide) (s : State) : (s.setHost h).phase = s.phase := rfl
@[simp] theorem setHost_port (h : HostSide) (s : State) : (s.setHost h).port = s.port := rfl
@[simp] theorem setHost_host (h : HostSide) (s : State) : (s.setHost h).host = h := rfl
@[simp] theorem setHost_setHost (h h' : HostSide) (s : State) : (s.setHost h).setHost h' = s.setHost h' := rfl

/-! ## Updates of different fields commute; a bank's update past the phase -/

theorem setScg_setPhase (b : List Scg) (p : Phase) (s : State) :
    (s.setPhase p).setScg b = (s.setScg b).setPhase p := rfl
theorem setTrg_setPhase (b : List Trg) (p : Phase) (s : State) :
    (s.setPhase p).setTrg b = (s.setTrg b).setPhase p := rfl
theorem setLfg_setPhase (b : List Lfg) (p : Phase) (s : State) :
    (s.setPhase p).setLfg b = (s.setLfg b).setPhase p := rfl

/-! ## withScript -/

@[simp] theorem withScript_cfg (l : List HostEvent) (s : State) : (s.withScript l).cfg = s.cfg := rfl
@[simp] theorem withScript_scg (l : List HostEvent) (s : State) : (s.withScript l).scg = s.scg := rfl
@[simp] theorem withScript_trg (l : List HostEvent) (s : State) : (s.withScript l).trg = s.trg := rfl
@[simp] theorem withScript_lfg (l : List HostEvent) (s : State) : (s.withScript l).lfg = s.lfg := rfl
@[simp] theorem withScript_phase (l : List HostEvent) (s : State) : (s.withScript l).phase = s.phase := rfl
@[simp] theorem withScript_port (l : List HostEvent) (s : State) : (s.withScript l).port = s.port := rfl
@[simp] theorem withScript_host (l : List HostEvent) (s : State) : (s.withScript l).host = ⟨l, s.host.received⟩ := rfl

/-! ## Two states with the same fields are the same -/

theorem state_ext {s t : State} (hc : s.cfg = t.cfg) (h1 : s.scg = t.scg) (h2 : s.trg = t.trg) (h3 : s.lfg = t.lfg)
    (hp : s.phase = t.phase) (hf : s.port = t.port) (hh : s.host = t.host) : s = t := by
  cases s; cases t; simp_all

end Sys2Proof.Machine
end

