-- ==== Sys2Proof/Laws/Ops.lean ====
section
/-!
SUPPORT. What each shared operation can do, said once: productions and seedings of a unit, the checks before them, and
the draw micro-step. Later proofs cite these lemmas instead of unfolding the operations.
-/

namespace Sys2Proof.Machine

/-! ## Ending a command -/

@[simp] theorem raise_eq (st : Status) (s : State) : s.raise st = .next (s.setPhase (.done [statusWord st])) := rfl

@[simp] theorem respond_eq (ws : List Word) (s : State) :
    s.respond ws = .next (s.setPhase (.done (statusWord .ok :: ws))) := rfl

theorem statusWord_injective {a b : Status} (h : statusWord a = statusWord b) : a = b := by
  revert h; cases a <;> cases b <;> decide

/-! ## One production -/

theorem produce_sc (i : Nat) (s : State) :
    s.produce .sc i = s.scg[i]?.map fun g =>
      ((produceSc s.cfg.scCounterTop (s.cfg.roundsOf i) g).1,
        s.setScg (s.scg.set i (produceSc s.cfg.scCounterTop (s.cfg.roundsOf i) g).2)) := rfl

theorem produce_tr (i : Nat) (s : State) :
    s.produce .tr i = s.trg[i]?.map fun g => ((produceTr g).1, s.setTrg (s.trg.set i (produceTr g).2)) := rfl

theorem produce_lf (i : Nat) (s : State) :
    s.produce .lf i = s.lfg[i]?.map fun g => ((produceLf g).1, s.setLfg (s.lfg.set i (produceLf g).2)) := rfl

/-- A production answers exactly when the bank has the unit. -/
theorem produce_isSome (k : Kind) (i : Nat) (s : State) : (s.produce k i).isSome = true ↔ i < s.num k := by
  cases k <;> simp [State.produce, State.num]

/-- A production leaves the parameters, the phase, the port and the host as they were. -/
theorem produce_fixed {k : Kind} {i : Nat} {s t : State} {w : Word} (h : s.produce k i = some (w, t)) :
    t.cfg = s.cfg ∧ t.phase = s.phase ∧ t.port = s.port ∧ t.host = s.host := by
  cases k <;> simp only [State.produce, Option.map_eq_some_iff, Prod.mk.injEq] at h <;>
    obtain ⟨_, _, _, rfl⟩ := h <;> exact ⟨rfl, rfl, rfl, rfl⟩

/-- A production does not depend on the phase. -/
theorem produce_setPhase (k : Kind) (i : Nat) (p : Phase) (s : State) :
    (s.setPhase p).produce k i = (s.produce k i).map fun q => (q.1, q.2.setPhase p) := by
  cases k
  · cases hg : s.scg[i]? <;> simp [State.produce, hg]; rfl
  · cases hg : s.trg[i]? <;> simp [State.produce, hg]; rfl
  · cases hg : s.lfg[i]? <;> simp [State.produce, hg]; rfl

/-- A production leaves the number of units of every kind as it was. -/
theorem produce_num {k : Kind} {i : Nat} {s t : State} {w : Word} (h : s.produce k i = some (w, t)) (k' : Kind) :
    t.num k' = s.num k' := by
  cases k <;> simp only [State.produce, Option.map_eq_some_iff, Prod.mk.injEq] at h <;>
    obtain ⟨_, _, _, rfl⟩ := h <;> cases k' <;> simp [State.num]

theorem produceSc_seeded (top : CounterTop) (r : Nat) (g : Scg) : (produceSc top r g).2.seeded = g.seeded := by
  simp only [produceSc, scTake, scRefill]; split <;> rfl

@[simp] theorem produceTr_seeded (g : Trg) : (produceTr g).2.seeded = g.seeded := rfl

@[simp] theorem produceLf_seeded (g : Lfg) : (produceLf g).2.seeded = g.seeded := rfl

/-! ## The seeded bit -/

/-- A seeded unit is in its bank. -/
theorem isSeeded_lt {k : Kind} {i : Nat} {s : State} (h : s.isSeeded k i = true) : i < s.num k := by
  cases k <;> simp only [State.isSeeded, Option.any_eq_true] at h <;> obtain ⟨g, hg, _⟩ := h <;>
    exact (List.getElem?_eq_some_iff.mp hg).1

theorem isSeeded_produce {k : Kind} {i : Nat} {s : State} (h : s.isSeeded k i = true) :
    ∃ w t, s.produce k i = some (w, t) := by
  obtain ⟨p, hp⟩ := Option.isSome_iff_exists.mp ((produce_isSome k i s).mpr (isSeeded_lt h))
  exact ⟨p.1, p.2, hp⟩

@[simp] theorem isSeeded_setPhase (k : Kind) (i : Nat) (p : Phase) (s : State) :
    (s.setPhase p).isSeeded k i = s.isSeeded k i := by cases k <;> rfl

@[simp] theorem num_setPhase (k : Kind) (p : Phase) (s : State) : (s.setPhase p).num k = s.num k := by
  cases k <;> rfl

/-! ## The checks -/

theorem requireUnit_of_lt {k : Kind} {inst : BitVec 8} {s : State} (h : inst.toNat < s.num k) (body : Result) :
    requireUnit k inst s body = body := if_neg (Nat.not_le.mpr h)

theorem requireUnit_of_ge {k : Kind} {inst : BitVec 8} {s : State} (h : s.num k ≤ inst.toNat) (body : Result) :
    requireUnit k inst s body = s.raise .badInstance := if_pos h

theorem requireSeeded_of {k : Kind} {inst : BitVec 8} {s : State} (h : s.isSeeded k inst.toNat = true)
    (body : Result) : requireSeeded k inst s body = body := by simp [requireSeeded, h]

theorem requireSeeded_of_not {k : Kind} {inst : BitVec 8} {s : State} (h : s.isSeeded k inst.toNat = false)
    (body : Result) : requireSeeded k inst s body = s.raise .notSeeded := by simp [requireSeeded, h]

/-! ## Draws -/

theorem draw_of_produce {k : Kind} {i : Nat} {s t : State} {w : Word} (h : s.produce k i = some (w, t))
    (f : Word → State → Result) : s.draw k i f = f w t := by simp [State.draw, h]

/-- A draw micro-step that answers a next state made one production; the command ended with the result of an accepted
word, or is still in the loop after a rejected one. -/
theorem drawStep_next {d : DrawLoop} {s t : State} (h : drawStep d s = .next t) :
    ∃ w u, s.produce d.kind d.inst = some (w, u) ∧
      ((u32 w < d.bound ∧ t = u.setPhase (.done (statusWord .ok :: rangeWords (rangeResult d.lower d.n d.bound w)))) ∨
        (d.bound ≤ u32 w ∧ t = u.setPhase (.drawing d))) := by
  unfold drawStep State.draw at h
  split at h
  next w u hp =>
    refine ⟨w, u, hp, ?_⟩
    beta_reduce at h
    split at h
    next hlt => exact .inl ⟨hlt, (Host.Outcome.next.inj h).symm⟩
    next hge => exact .inr ⟨Nat.not_lt.mp hge, (Host.Outcome.next.inj h).symm⟩
  next => cases h

/-- A draw micro-step from a unit of the bank answers a next state. -/
theorem drawStep_answers {d : DrawLoop} {s : State} (h : d.inst < s.num d.kind) : ∃ t, drawStep d s = .next t := by
  obtain ⟨p, hp⟩ := Option.isSome_iff_exists.mp ((produce_isSome d.kind d.inst s).mpr h)
  obtain ⟨w, u⟩ := p
  rw [drawStep, draw_of_produce hp]
  split <;> exact ⟨_, rfl⟩

/-- A range command's answer: one of the three argument and seeding errors of R251, or its first draw micro-step on a
seeded unit with an allowed range. -/
theorem rangeCommand_cases (k : Kind) (inst : BitVec 8) (lower upper : Int) (s : State) :
    (upper < lower ∧ rangeCommand k inst lower upper s = s.raise .invalidRange) ∨
    (lower ≤ upper ∧ 2 ^ 32 < rangeSize lower upper ∧ rangeCommand k inst lower upper s = s.raise .rangeTooWide) ∨
    (lower ≤ upper ∧ rangeSize lower upper ≤ 2 ^ 32 ∧ s.isSeeded k inst.toNat = false ∧
      rangeCommand k inst lower upper s = s.raise .notSeeded) ∨
    (lower ≤ upper ∧ rangeSize lower upper ≤ 2 ^ 32 ∧ s.isSeeded k inst.toNat = true ∧
      rangeCommand k inst lower upper s = drawStep (drawLoop k inst lower upper) s) := by
  unfold rangeCommand
  rcases lt_or_ge upper lower with h | h
  · simp [h]
  · rw [if_neg (not_lt.mpr h)]
    rcases lt_or_ge (2 ^ 32 : Int) (rangeSize lower upper) with h2 | h2
    · exact .inr (.inl ⟨h, h2, if_pos h2⟩)
    · rw [if_neg (not_lt.mpr h2)]
      cases hs : s.isSeeded k inst.toNat
      · exact .inr (.inr (.inl ⟨h, h2, rfl, requireSeeded_of_not hs _⟩))
      · exact .inr (.inr (.inr ⟨h, h2, rfl, requireSeeded_of hs _⟩))

/-! ## Seeding -/

@[simp] theorem seedUnit_cfg (k : Kind) (i : Nat) (w : List Word) (s : State) : (s.seedUnit k i w).cfg = s.cfg := by
  cases k <;> rfl
@[simp] theorem seedUnit_phase (k : Kind) (i : Nat) (w : List Word) (s : State) :
    (s.seedUnit k i w).phase = s.phase := by cases k <;> rfl
@[simp] theorem seedUnit_port (k : Kind) (i : Nat) (w : List Word) (s : State) : (s.seedUnit k i w).port = s.port := by
  cases k <;> rfl
@[simp] theorem seedUnit_host (k : Kind) (i : Nat) (w : List Word) (s : State) : (s.seedUnit k i w).host = s.host := by
  cases k <;> rfl
@[simp] theorem seedUnit_num (k k' : Kind) (i : Nat) (w : List Word) (s : State) :
    (s.seedUnit k i w).num k' = s.num k' := by
  cases k <;> cases k' <;> simp [State.seedUnit, State.num]

/-! ## The host's wait -/

@[simp] theorem hostWaits_cfg (s : State) : s.hostWaits.cfg = s.cfg := by
  unfold State.hostWaits; split <;> rfl
@[simp] theorem hostWaits_scg (s : State) : s.hostWaits.scg = s.scg := by
  unfold State.hostWaits; split <;> rfl
@[simp] theorem hostWaits_trg (s : State) : s.hostWaits.trg = s.trg := by
  unfold State.hostWaits; split <;> rfl
@[simp] theorem hostWaits_lfg (s : State) : s.hostWaits.lfg = s.lfg := by
  unfold State.hostWaits; split <;> rfl
@[simp] theorem hostWaits_phase (s : State) : s.hostWaits.phase = s.phase := by
  unfold State.hostWaits; split <;> rfl
@[simp] theorem hostWaits_port (s : State) : s.hostWaits.port = s.port := by
  unfold State.hostWaits; split <;> rfl

end Sys2Proof.Machine
end

