-- ==== Sys2Proof/Laws/Exec.lean ====
section
/-!
SUPPORT. What a command can do, said once for all sixteen: `exec_next` names the four ways in which `exec` answers a next
state, with the conditions under which each happens. Claims about every command follow from its cases.
-/

namespace Sys2Proof.Machine

/-- The phase a production leaves its command in: an OK response, or the draw loop of the same unit with the data that
R141 gives it. -/
def AfterDraw (k : Kind) (n : Nat) (p : Phase) : Prop :=
  (∃ ws, p = .done (statusWord .ok :: ws)) ∨
  ∃ d, p = .drawing d ∧ d.kind = k ∧ d.inst = n ∧ 1 ≤ d.n ∧ d.n ≤ 2 ^ 32 ∧ d.bound = rangeBound d.n ∧
    -2 ^ 63 ≤ d.lower ∧ d.lower + d.n ≤ 2 ^ 63

/-- A command ended with an error: only the response is written. -/
def EndsInError (s t : State) : Prop := ∃ st, st ≠ .ok ∧ t = s.setPhase (.done [statusWord st])

/-- A command drew one word from the unit `n` of kind `k`. -/
def Drew (k : Kind) (n : Nat) (s t : State) : Prop :=
  s.isSeeded k n = true ∧ ∃ w u p, s.produce k n = some (w, u) ∧ t = u.setPhase p ∧ AfterDraw k n p

theorem endsInError_raise {st : Status} {s t : State} (hne : st ≠ .ok) (h : s.raise st = .next t) : EndsInError s t :=
  ⟨st, hne, (Host.Outcome.next.inj h).symm⟩

theorem requireUnit_next {k : Kind} {inst : BitVec 8} {s t : State} {body : Result}
    (h : requireUnit k inst s body = .next t) :
    EndsInError s t ∨ (inst.toNat < s.num k ∧ body = .next t) := by
  rcases Nat.lt_or_ge inst.toNat (s.num k) with hlt | hge
  · rw [requireUnit_of_lt hlt] at h; exact .inr ⟨hlt, h⟩
  · rw [requireUnit_of_ge hge] at h; exact .inl (endsInError_raise (by decide) h)

theorem requireSeeded_next {k : Kind} {inst : BitVec 8} {s t : State} {body : Result}
    (h : requireSeeded k inst s body = .next t) :
    EndsInError s t ∨ (s.isSeeded k inst.toNat = true ∧ body = .next t) := by
  cases hs : s.isSeeded k inst.toNat
  · rw [requireSeeded_of_not hs] at h; exact .inl (endsInError_raise (by decide) h)
  · rw [requireSeeded_of hs] at h; exact .inr ⟨rfl, h⟩

/-- A command that makes one draw and responds (NEXT, RDBL). -/
theorem drawCommand_next {k : Kind} {inst : BitVec 8} {s t : State} {f : Word → List Word}
    (h : requireUnit k inst s (requireSeeded k inst s (s.draw k inst.toNat fun w u => u.respond (f w))) = .next t) :
    EndsInError s t ∨ Drew k inst.toNat s t := by
  obtain he | ⟨_, h⟩ := requireUnit_next h
  · exact .inl he
  obtain he | ⟨hs, h⟩ := requireSeeded_next h
  · exact .inl he
  obtain ⟨w, u, hp⟩ := isSeeded_produce hs
  rw [draw_of_produce hp] at h
  exact .inr ⟨hs, w, u, _, hp, (Host.Outcome.next.inj h).symm, .inl ⟨_, rfl⟩⟩

theorem rangeCommand_next {k : Kind} {inst : BitVec 8} {lower upper : Int} {s t : State}
    (hl : -2 ^ 63 ≤ lower) (hu : upper < 2 ^ 63) (h : rangeCommand k inst lower upper s = .next t) :
    EndsInError s t ∨ Drew k inst.toNat s t := by
  rcases rangeCommand_cases k inst lower upper s with ⟨_, e⟩ | ⟨_, _, e⟩ | ⟨_, _, _, e⟩ | ⟨hle, hn, hs, e⟩ <;>
    rw [e] at h
  · exact .inl (endsInError_raise (by decide) h)
  · exact .inl (endsInError_raise (by decide) h)
  · exact .inl (endsInError_raise (by decide) h)
  · obtain ⟨w, u, hp, ⟨_, rfl⟩ | ⟨_, rfl⟩⟩ := drawStep_next h
    · exact .inr ⟨hs, w, u, _, hp, rfl, .inl ⟨_, rfl⟩⟩
    · have hk : ((drawLoop k inst lower upper).n : Int) = upper - lower + 1 := by
        show (((rangeSize lower upper).toNat : Nat) : Int) = _
        unfold rangeSize
        exact Int.toNat_of_nonneg (by omega)
      have hn' : upper - lower + 1 ≤ 2 ^ 32 := hn
      refine .inr ⟨hs, w, u, _, hp, rfl, .inr ⟨_, rfl, rfl, rfl, ?_, ?_, rfl, hl, ?_⟩⟩
      · omega
      · omega
      · show lower + ((drawLoop k inst lower upper).n : Int) ≤ 2 ^ 63
        omega

theorem operandInt_bounds (d : BitVec 64) : -2 ^ 63 ≤ operandInt d ∧ operandInt d < 2 ^ 63 :=
  ⟨d.le_toInt, d.toInt_lt⟩

theorem rrangeCommand_next {k : Kind} {inst : BitVec 8} {lower upper : BitVec 64} {s t : State}
    (h : rrangeCommand k inst lower upper s = .next t) : EndsInError s t ∨ Drew k inst.toNat s t := by
  obtain he | ⟨_, h⟩ := requireUnit_next h
  · exact .inl he
  · exact rangeCommand_next (operandInt_bounds lower).1 (operandInt_bounds upper).2 h

theorem rindexCommand_next {k : Kind} {inst : BitVec 8} {count : BitVec 64} {s t : State}
    (h : rindexCommand k inst count s = .next t) : EndsInError s t ∨ Drew k inst.toNat s t := by
  obtain he | ⟨_, h⟩ := requireUnit_next h
  · exact .inl he
  split at h
  · exact .inl (endsInError_raise (by decide) h)
  · have := (operandInt_bounds count).2
    exact rangeCommand_next (by decide) (by omega) h

theorem seedCommand_next {k : Kind} {inst : BitVec 8} {w : List Word} {s t : State}
    (h : seedCommand k inst w s = .next t) :
    EndsInError s t ∨
      (inst.toNat < s.num k ∧ t = (s.seedUnit k inst.toNat w).setPhase (.done [statusWord .ok])) := by
  obtain he | ⟨hlt, h⟩ := requireUnit_next h
  · exact .inl he
  · exact .inr ⟨hlt, (Host.Outcome.next.inj h).symm⟩

/-- The ways a command `i` takes `s` to a next state `t`. -/
inductive Answers (i : Instr) (s t : State) : Prop
  | error (h : EndsInError s t)
  | hashed (hi : i.opcode = .hash) (ws : List Word) (ht : t = s.setPhase (.done (statusWord .ok :: ws)))
  | seeded (k : Kind) (inst : BitVec 8) (w : List Word) (hi : i = seedInstr inst w k) (hlt : inst.toNat < s.num k)
      (ht : t = (s.seedUnit k inst.toNat w).setPhase (.done [statusWord .ok]))
  | drew (k : Kind) (n : Nat) (hi : target i = some (k, n)) (ho : ∀ k, i.opcode ≠ .seed k) (h : Drew k n s t)

theorem answers_seed {k : Kind} {inst : BitVec 8} {w : List Word} {s t : State}
    (h : seedCommand k inst w s = .next t) : Answers (seedInstr inst w k) s t :=
  (seedCommand_next h).elim .error fun p => .seeded k inst w rfl p.1 p.2

theorem answers_draw {i : Instr} {k : Kind} {n : Nat} {s t : State} (hi : target i = some (k, n))
    (ho : ∀ k, i.opcode ≠ .seed k) (h : EndsInError s t ∨ Drew k n s t) : Answers i s t :=
  h.elim .error (.drew k n hi ho)

/-- Every next state a command gives comes about in one of these ways. -/
theorem exec_next {i : Instr} {s t : State} (h : exec i s = .next t) : Answers i s t := by
  cases i with
  | hash rate m input =>
    simp only [exec, execHash] at h
    split at h
    · exact .hashed rfl _ (Host.Outcome.next.inj h).symm
    · exact .error (endsInError_raise (by decide) h)
  | seedSc inst w => exact answers_seed (k := .sc) h
  | seedTr inst w => exact answers_seed (k := .tr) h
  | seedLf inst w => exact answers_seed (k := .lf) h
  | nextSc inst => exact answers_draw rfl nofun (drawCommand_next h)
  | nextTr inst => exact answers_draw rfl nofun (drawCommand_next h)
  | nextLf inst => exact answers_draw rfl nofun (drawCommand_next h)
  | rdblSc inst => exact answers_draw rfl nofun (drawCommand_next h)
  | rdblTr inst => exact answers_draw rfl nofun (drawCommand_next h)
  | rdblLf inst => exact answers_draw rfl nofun (drawCommand_next h)
  | rrangeSc inst lower upper => exact answers_draw rfl nofun (rrangeCommand_next h)
  | rrangeTr inst lower upper => exact answers_draw rfl nofun (rrangeCommand_next h)
  | rrangeLf inst lower upper => exact answers_draw rfl nofun (rrangeCommand_next h)
  | rindexSc inst count => exact answers_draw rfl nofun (rindexCommand_next h)
  | rindexTr inst count => exact answers_draw rfl nofun (rindexCommand_next h)
  | rindexLf inst count => exact answers_draw rfl nofun (rindexCommand_next h)

end Sys2Proof.Machine
end

