-- ==== Sys2Proof/Laws/PerInstr.lean ====
section
/-!
SUPPORT. A fact about every command as data, one lemma for each constructor: its header has its opcode-table row's
match value under the row's mask (spec/opcode_table.json, spec/30_encoding.md R82).
-/

namespace Sys2Proof.Laws.TableRow

/-- The `mask` of a row of spec/opcode_table.json. -/
def rowMask : Opcode → Word
  | .hash => 0xFFFFFFE0#32
  | .seed _ => 0xFF00FFFF#32
  | .next _ => 0xFF00FFFF#32
  | .rdbl _ => 0xFF00FFFF#32
  | .rrange _ => 0xFF00FFFF#32
  | .rindex _ => 0xFF00FFFF#32

/-- The `match` of a row of spec/opcode_table.json. -/
def rowMatch : Opcode → Word
  | .hash => 0x01000000#32
  | .seed .sc => 0x10000000#32
  | .seed .tr => 0x11000000#32
  | .seed .lf => 0x12000000#32
  | .next .sc => 0x20000000#32
  | .next .tr => 0x21000000#32
  | .next .lf => 0x22000000#32
  | .rdbl .sc => 0x30000000#32
  | .rdbl .tr => 0x31000000#32
  | .rdbl .lf => 0x32000000#32
  | .rrange .sc => 0x40000000#32
  | .rrange .tr => 0x41000000#32
  | .rrange .lf => 0x42000000#32
  | .rindex .sc => 0x50000000#32
  | .rindex .tr => 0x51000000#32
  | .rindex .lf => 0x52000000#32

/-- The header has its row's match value under its row's mask. -/
def Statement (i : Instr) : Prop := i.header &&& rowMask i.opcode = rowMatch i.opcode

/-- The mask of the generator rows keeps OPC and clears INST, for a header with RATE zero. -/
theorem header_mask (opc inst : BitVec 8) : headerWord opc inst 0 &&& 0xFF00FFFF#32 = opc ++ 0#24 := by
  apply BitVec.eq_of_getLsbD_eq
  intro k hk
  unfold headerWord
  simp only [BitVec.getLsbD_and, BitVec.getLsbD_append, BitVec.getLsbD_zero]
  interval_cases k <;> simp

theorem hash (rate : BitVec 5) (outCount : Word) (input : List Word) : Statement (.hash rate outCount input) := by
  show headerWord 0x01#8 0 rate &&& 0xFFFFFFE0#32 = 0x01000000#32
  revert rate; decide
theorem seedSc (inst : BitVec 8) (seed : List Word) : Statement (.seedSc inst seed) := header_mask 0x10#8 inst
theorem seedTr (inst : BitVec 8) (seed : List Word) : Statement (.seedTr inst seed) := header_mask 0x11#8 inst
theorem seedLf (inst : BitVec 8) (seed : List Word) : Statement (.seedLf inst seed) := header_mask 0x12#8 inst
theorem nextSc (inst : BitVec 8) : Statement (.nextSc inst) := header_mask 0x20#8 inst
theorem nextTr (inst : BitVec 8) : Statement (.nextTr inst) := header_mask 0x21#8 inst
theorem nextLf (inst : BitVec 8) : Statement (.nextLf inst) := header_mask 0x22#8 inst
theorem rdblSc (inst : BitVec 8) : Statement (.rdblSc inst) := header_mask 0x30#8 inst
theorem rdblTr (inst : BitVec 8) : Statement (.rdblTr inst) := header_mask 0x31#8 inst
theorem rdblLf (inst : BitVec 8) : Statement (.rdblLf inst) := header_mask 0x32#8 inst
theorem rrangeSc (inst : BitVec 8) (lower upper : BitVec 64) : Statement (.rrangeSc inst lower upper) := header_mask 0x40#8 inst
theorem rrangeTr (inst : BitVec 8) (lower upper : BitVec 64) : Statement (.rrangeTr inst lower upper) := header_mask 0x41#8 inst
theorem rrangeLf (inst : BitVec 8) (lower upper : BitVec 64) : Statement (.rrangeLf inst lower upper) := header_mask 0x42#8 inst
theorem rindexSc (inst : BitVec 8) (count : BitVec 64) : Statement (.rindexSc inst count) := header_mask 0x50#8 inst
theorem rindexTr (inst : BitVec 8) (count : BitVec 64) : Statement (.rindexTr inst count) := header_mask 0x51#8 inst
theorem rindexLf (inst : BitVec 8) (count : BitVec 64) : Statement (.rindexLf inst count) := header_mask 0x52#8 inst

end Sys2Proof.Laws.TableRow
end

