-- ==== Sys2Proof/Tests/Slice0.lean ====
section
/-!
SUPPORT. Tests and witnesses. The expected results are the values of spec/95_test_vectors.md (named V<n>, P<n>, E<n>) and
the worked examples of the command rules, or hand calculation from the rule named. The witnesses show states and operands
that meet all hypotheses of a statement of Certificates/Slice0/Obligations.lean together.
-/

namespace Sys2Proof.Tests

open Sys2Proof Sys2Proof.Machine

/-! ## Well-formedness: a list longer than the count word can say is refused (R76, R79) -/

theorem countFits_long : countFits (List.replicate (2 ^ 32) 0) = false := by
  simp only [countFits, List.length_replicate, lt_irrefl, decide_false]

theorem test_wf_hash : (Instr.hash 9 1 (List.replicate (2 ^ 32) 0)).wellFormed = false := countFits_long
theorem test_wf_seedSc : (Instr.seedSc 0 (List.replicate (2 ^ 32) 0)).wellFormed = false := countFits_long
theorem test_wf_seedTr : (Instr.seedTr 0 (List.replicate (2 ^ 32) 0)).wellFormed = false := countFits_long
theorem test_wf_seedLf : (Instr.seedLf 0 (List.replicate (2 ^ 32) 0)).wellFormed = false := countFits_long
theorem test_wf_accepts : (Instr.hash 9 1 [0xFCFDECC1]).wellFormed = true := by decide

/-! ## Decoding: one word or frame for each constructor, written out from the header patterns of R82 -/

theorem test_decode_hash : decode none [0b00000001_00000000_00000000000_10001, 2, 2, 0x24204F4A, 0x26255184] =
    .ok (.hash 17 2 [0x24204F4A, 0x26255184]) := by decide
theorem test_decode_seedSc : decode none [0b00010000_00000011_00000000000_00000, 1, 0] = .ok (.seedSc 3 [0]) := by decide
theorem test_decode_seedTr : decode none [0b00010001_00000000_00000000000_00000, 1, 0] = .ok (.seedTr 0 [0]) := by decide
theorem test_decode_seedLf : decode none [0b00010010_00000000_00000000000_00000, 0] = .ok (.seedLf 0 []) := by decide
theorem test_decode_nextSc : decode none [0b00100000_11111111_00000000000_00000] = .ok (.nextSc 255) := by decide
theorem test_decode_nextTr : decode none [0b00100001_00000000_00000000000_00000] = .ok (.nextTr 0) := by decide
theorem test_decode_nextLf : decode none [0b00100010_00000000_00000000000_00000] = .ok (.nextLf 0) := by decide
theorem test_decode_rdblSc : decode none [0b00110000_00000000_00000000000_00000] = .ok (.rdblSc 0) := by decide
theorem test_decode_rdblTr : decode none [0b00110001_00000000_00000000000_00000] = .ok (.rdblTr 0) := by decide
theorem test_decode_rdblLf : decode none [0b00110010_10000000_00000000000_00000] = .ok (.rdblLf 128) := by decide
theorem test_decode_rrangeSc : decode none [0b01000000_00000000_00000000000_00000, 5, 0, 5, 0] =
    .ok (.rrangeSc 0 5 5) := by decide
theorem test_decode_rrangeTr : decode none [0b01000001_00000000_00000000000_00000, 0, 0, 0x80000000, 0] =
    .ok (.rrangeTr 0 0 0x80000000) := by decide
theorem test_decode_rrangeLf : decode none [0b01000010_00000000_00000000000_00000, 0x80000000, 0xFFFFFFFF, 0x7FFFFFFF, 0] =
    .ok (.rrangeLf 0 0xFFFFFFFF80000000 0x7FFFFFFF) := by decide
theorem test_decode_rindexSc : decode none [0b01010000_00000000_00000000000_00000, 0, 0] = .ok (.rindexSc 0 0) := by decide
theorem test_decode_rindexTr : decode none [0b01010001_00000000_00000000000_00000, 10, 0] = .ok (.rindexTr 0 10) := by decide
theorem test_decode_rindexLf : decode none [0b01010010_00000000_00000000000_00000, 0xFFFFFFFF, 0xFFFFFFFF] =
    .ok (.rindexLf 0 0xFFFFFFFFFFFFFFFF) := by decide

/-- V71, V72: unassigned OPCs. -/
theorem test_decode_unassigned : decode none [0x60000000] = .error .illegalOpcode ∧
    decode none [0x00000000] = .error .illegalOpcode := by decide
/-- V73, V74: reserved bits. -/
theorem test_decode_reserved : decode none [0x22000001] = .error .reservedField ∧
    decode none [0x01010009, 0, 1] = .error .reservedField := by decide
/-- V70, V75, V76: lengths. -/
theorem test_decode_length : decode none [] = .error .frameError ∧
    decode none [0x22000000, 0x00000005] = .error .frameError ∧
    decode none [0x01000009, 2, 1, 5] = .error .frameError := by decide
/-- R241: longer than MAX_FRAME_WORDS. -/
theorem test_decode_overlong : decode (some 2) [0x10000000, 1, 0] = .error .frameError := by decide
/-- R78: the assembly line of P5. -/
theorem test_assembly : assembly (.rrangeTr 0 0 0x80000000) = "RRANGE.TR #0, 0, 2147483648" := by decide +kernel

/-! ## A small state: one seeded unit of each kind -/

/-- The core of V30. -/
def coreV30 : Block :=
  #v[0x61707865, 0x3320646E, 0x79622D32, 0x6B206574, 0xC11ED331, 0x2A7EC135, 0x4462DEAD, 0x9BF95601,
     0x3C15EA7D, 0x86F6A78B, 0xE6700479, 0xD11BE418, 0x434FF693, 0x2E0538DC, 0, 0]

/-- The TRG words of V40. -/
def wordsV40 : Vector Word 32 :=
  #v[0xC11ED331, 0x2A7EC135, 0x4462DEAD, 0x9BF95601, 0x3C15EA7D, 0x86F6A78B, 0xE6700479, 0xD11BE418,
     0x434FF693, 0x2E0538DC, 0xB746CB9B, 0xC816B1BE, 0x4E5C70C6, 0x3EF7F302, 0x9CC6D3D9, 0x4C2DBAB0,
     0x5DFCFC3F, 0x8879DA68, 0x28B53315, 0x3EE3B1CC, 0xD5965A29, 0x3F768156, 0xAF6E8C95, 0xF68D777B,
     0x32E0516D, 0x4A8C9581, 0x89104EA6, 0xFF7C67B6, 0xCAED977E, 0x15C96BC0, 0x5BC54007, 0xCEFEE3DA]

/-- An SCG unit with every word of `out` equal to `w`. -/
def scWith (w : Word) (remaining : Fin 17) : Scg := ⟨coreV30, Vector.replicate 16 w, remaining, true⟩

/-- An LFG unit whose next word is `w`: `V[0] = w` and zeros (R226). -/
def lfWith (w : Word) : Lfg := ⟨(Vector.replicate 256 0).set 0 w, 0, true⟩

/-- One seeded unit of each kind, otherwise the state after reset. -/
def stateWith (g : Scg) (t : Trg) (l : Lfg) : State := { State.reset with scg := [g], trg := [t], lfg := [l] }

/-- The TRG unit of V42. -/
def trV42 : Trg := ⟨(Vector.replicate 32 0).set 0 1, 0, true⟩

/-- The TRG unit of V40. -/
def trV40 : Trg := ⟨wordsV40, 0, true⟩

/-- The state the tests below start from. -/
def small (w : Word) : State := stateWith (scWith w 16) trV42 (lfWith w)

/-- The response a result leaves, if it leaves one. -/
def response (r : Result) : Option Frame :=
  match r with
  | .next s =>
    match s.phase with
    | .done f => some f
    | _ => none
  | _ => none

/-! ## The commands -/

/-- V1 (KANS §8). -/
theorem test_hash_v1 : response (execHash 9 1 [] State.reset) = some [0x00, 0x56C5094D] := by decide +kernel
/-- V77, V78: rates 26 and 0. -/
theorem test_hash_rate : response (execHash 26 1 [] State.reset) = some [0x05] ∧
    response (execHash 0 1 [] State.reset) = some [0x05] := by decide
/-- V30: core[4] and core[13] after SEED.SC #0, [0]. -/
theorem test_seedSc_v30 : (match execSeedSc 0 [0] State.reset with
    | .next s => s.scg.map fun g => (g.core[4], g.core[13], g.core[15], g.core[0], g.remaining, g.seeded)
    | _ => []) = [(0xC11ED331, 0x2E0538DC, 0, 0x61707865, 16, true)] := by decide +kernel
/-- R135: V[0] after SEED.TR #0, [0]. -/
theorem test_seedTr_v40 : (match execSeedTr 0 [0] State.reset with
    | .next s => s.trg.map fun g => (g.v[0], g.idx, g.seeded)
    | _ => []) = [(0xC11ED331, 0, true)] := by decide +kernel
/-- R136: V[3] after SEED.LF #0, []. -/
theorem test_seedLf_v50 : (match execSeedLf 0 [] State.reset with
    | .next s => s.lfg.map fun g => (g.v[3], g.idx, g.seeded)
    | _ => []) = [(0x12AE7336, 0, true)] := by decide +kernel
/-- V79's status for SEED: the default block has one LFG unit. -/
theorem test_seed_badInstance : response (execSeedLf 1 [] State.reset) = some [0x04] := by decide

/-- V31: word 17 after V30, from the core of V30 with no word left. -/
theorem test_nextSc_refill : response (execNextSc 0 (stateWith (scWith 0 0) trV42 (lfWith 0))) =
    some [0x00, 0x95F43F67] := by decide +kernel
/-- R180: the next word is out[16 - remaining]. -/
theorem test_nextSc_order :
    response (execNextSc 0 (stateWith ⟨coreV30, (Vector.replicate 16 0).set 13 7, 3, true⟩ trV42 (lfWith 0))) =
      some [0x00, 7] := by decide
/-- V42, step 1. -/
theorem test_nextTr_v42 : response (execNextTr 0 (small 0)) = some [0x00, 0x81] := by decide
/-- V43: V[k] = k + 1; the word and V[0]. -/
theorem test_nextTr_v43 :
    (let p := produceTr ⟨Vector.ofFn fun k : Fin 32 => BitVec.ofNat 32 (k.val + 1), 0, true⟩
     (p.1, p.2.v[0], p.2.v[31], p.2.idx)) = (0x58C982B7, 0x00CAC017, 0x58C982B7, 31) := by decide +kernel
/-- V51: V[k] = k, V[0] forced to 1. -/
theorem test_nextLf_v51 :
    (let p := produceLf (initStateLf (Vector.ofFn fun k : Fin 256 => BitVec.ofNat 32 k.val))
     (p.1, p.2.idx)) = (0x1A0, 1) := by decide +kernel
/-- V53: the sum wraps. -/
theorem test_nextLf_wraps :
    response (execNextLf 0 (stateWith (scWith 0 16) trV42
      ⟨((Vector.replicate 256 0).set 0 0xFFFFFFFF).set 201 1, 0, true⟩)) = some [0x00, 0] := by decide +kernel
/-- R249: on an unseeded unit. -/
theorem test_next_unseeded : response (execNextTr 0 State.reset) = some [0x09] := by decide

/-- P4, step 19. -/
theorem test_rdblSc_p4 : response (execRdblSc 0 (small 0xB925CD26)) = some [0x00, 0xA4C00000, 0x3FE724B9] := by
  decide +kernel
/-- R139 by hand for the word 0x81 of V42: p = 7, E = 998 = 0x3E6, F = 2^45. -/
theorem test_rdblTr : response (execRdblTr 0 (small 0)) = some [0x00, 0x00000000, 0x3E602000] := by decide +kernel
/-- R145, V64. -/
theorem test_rdblLf_v64 : response (execRdblLf 0 (small 0x00100000)) = some [0x00, 0x00000000, 0x3F300000] := by
  decide +kernel
/-- V60 to V63. -/
theorem test_binary64 : doubleWords 0 = [0, 0] ∧ doubleWords 1 = [0, 0x3DF00000] ∧
    doubleWords 0x80000000 = [0, 0x3FE00000] ∧ doubleWords 0xFFFFFFFF = [0xFFE00000, 0x3FEFFFFF] := by decide +kernel

/-- V67, n = 3: 0xFFFFFFFE is accepted with lower + 2, here 5 + 2. -/
theorem test_rrangeSc_accepts : response (execRrangeSc 0 5 7 (small 0xFFFFFFFE)) = some [0x00, 7, 0] := by decide +kernel
/-- V67, n = 3: 0xFFFFFFFF is rejected; the word is consumed and the loop goes on. -/
theorem test_rrangeSc_rejects : (match execRrangeSc 0 5 7 (small 0xFFFFFFFF) with
    | .next s => (s.phase, s.scg.map fun g => g.remaining)
    | _ => (.idle, [])) = (.drawing ⟨.sc, 0, 5, 3, 0xFFFFFFFF⟩, [15]) := by decide +kernel
/-- P5, run 1: from V40 one word is rejected, the next one accepted. -/
theorem test_rrangeTr_p5 : (match execRrangeTr 0 0 0x80000000 (stateWith (scWith 0 16) trV40 (lfWith 0)) with
    | .next s =>
      (match s.phase with
       | .drawing d => response (drawStep d s)
       | _ => none)
    | _ => none) = some [0x00, 0x62899119, 0] := by decide +kernel
/-- V68: the full signed 32-bit range. -/
theorem test_rrangeLf_v68 : response (execRrangeLf 0 0xFFFFFFFF80000000 0x7FFFFFFF (small 0x5DCCF7BB)) =
    some [0x00, 0xDDCCF7BB, 0xFFFFFFFF] := by decide +kernel
/-- V69 and P3, step 9. -/
theorem test_rrange_errors : response (execRrangeLf 0 5 3 State.reset) = some [0x07] ∧
    response (execRrangeLf 0 5 5 State.reset) = some [0x09] ∧
    response (execRrangeLf 0 0 0x100000000 State.reset) = some [0x08] := by decide

/-- V66. -/
theorem test_rindexSc_v66 : response (execRindexSc 0 10 (small 0xBAB049AB)) = some [0x00, 7, 0] := by decide +kernel
/-- R149: count = 2^32 accepts every word, and the result is the word, here 0x81 of V42. -/
theorem test_rindexTr_full : response (execRindexTr 0 0x100000000 (small 0)) = some [0x00, 0x81, 0] := by decide +kernel
/-- R149: count = 1 returns 0. -/
theorem test_rindexLf_one : response (execRindexLf 0 1 (small 0xFFFFFFFF)) = some [0x00, 0, 0] := by decide +kernel
/-- R149, R151: counts 0 and -1. -/
theorem test_rindex_errors : response (execRindexSc 0 0 State.reset) = some [0x07] ∧
    response (execRindexLf 0 0xFFFFFFFFFFFFFFFF State.reset) = some [0x06] := by decide

/-! ## The units -/

/-- V20. -/
theorem test_quarterRound_v20 : quarterRoundWords 0x11111111 0x01020304 0x9B8D6F43 0x01234567 =
    (0xEA2A92F4, 0xCB1CF8CE, 0x4581472E, 0x5881C4BB) := by decide
/-- V26: with the top at 12 the carry is discarded, with the top at 4 it goes on to core[11]. -/
theorem test_increment_v26 :
    (let core : Block := Vector.ofFn fun i => if i.val < 12 then 0xAAAAAAAA else 0xFFFFFFFF
     ((scIncrement .pos12 core)[11], (scIncrement .pos12 core)[12], (scIncrement .pos4 core)[11])) =
      (0xAAAAAAAA, 0, 0xAAAAAAAB) := by decide +kernel
/-- V5. -/
theorem test_pad_v5 : pad [] 1 = [0x80000001] ∧ pad [1, 2, 3] 4 = [1, 2, 3, 0x80000001] ∧
    pad [5] 1 = [5, 0x80000001] := by decide
/-- V65. -/
theorem test_bound_v65 : rangeBound 3 = 0xFFFFFFFF ∧ rangeBound 10 = 0xFFFFFFFA ∧
    rangeBound (2 ^ 31 + 1) = 0x80000001 ∧ rangeBound (2 ^ 32) = 2 ^ 32 := by decide
/-- The frame an opcode-table word stands for, and the step that runs it first after reset: NEXT.TR is NOT_SEEDED. -/
theorem test_fetchWord : decodeTableWord 32 0x41000000 = some (.rrangeTr 0 0 0) ∧
    response (step (State.reset.withFetchWord 32 0x21000000)) = some [0x09] := by decide

/-! ## Witnesses of the hypotheses -/

/-- A state whose host submits a NEXT.TR frame. -/
def submitting (port : Option Frame) (p : Phase) : State :=
  { small 0 with port := port, phase := p, host := ⟨[.submit [0x21000000]], []⟩ }

/-- A state inside a draw loop on TRG unit 0. -/
def drawingState : State := { small 0 with phase := .drawing ⟨.tr, 0, 0, 3, 0xFFFFFFFF⟩ }

/-- A state inside a draw loop on SCG unit 0, whose next word V67 rejects. -/
def rejectingState : State := { small 0xFFFFFFFF with phase := .drawing ⟨.sc, 0, 5, 3, 0xFFFFFFFF⟩ }

theorem witness_EncodedCommandDecodes :
    (Instr.seedTr 3 [7]).wellFormed = true ∧ overlong (some 3) (encode (.seedTr 3 [7])) = false := by decide
theorem witness_DecodedFrameIsItsEncoding : decode (some 1) [0x20070000] = .ok (.nextSc 7) := by decide
theorem witness_UnassignedOpcodeIsIllegal : (0x530000FF#32).toNat / 2 ^ 24 ∉
    [0x01, 0x10, 0x11, 0x12, 0x20, 0x21, 0x22, 0x30, 0x31, 0x32, 0x40, 0x41, 0x42, 0x50, 0x51, 0x52] := by decide
theorem witness_ReservedBitEndsTheCommand : opcodeOf (opcField 0x01010009) = some .hash ∧
    decode none [0x01010009, 0, 1] = .error .reservedField := by decide
theorem witness_WrongLengthIsFrameError : opcodeOf (opcField 0x22000000) = some (.next .lf) ∧
    (0x22000000#32 &&& reservedMask (.next .lf)) = 0 ∧ decode none [0x22000000, 5] = .error .frameError := by decide
theorem witness_StepRunsTheDecodedCommand : hostMove (State.reset.withFetchWord 32 0x21000000) = none ∧
    (State.reset.withFetchWord 32 0x21000000).phase = .busy [0x21000000] ∧
    decode (State.reset.withFetchWord 32 0x21000000).cfg.maxFrameWords [0x21000000] = .ok (.nextTr 0) :=
  ⟨rfl, by decide, by decide⟩
/-- The draw loop on the sequencer's turn, with an accepted word (V42's 0x81) and with a rejected one (V67). -/
theorem witness_StepRunsTheDecodedCommand_loop : hostMove drawingState = none ∧
    drawingState.phase = .drawing ⟨.tr, 0, 0, 3, 0xFFFFFFFF⟩ ∧
    (∃ t, drawingState.hostWaits.produce .tr 0 = some (0x81, t)) ∧ (0x81#32).toNat < 0xFFFFFFFF ∧
    hostMove rejectingState = none ∧ rejectingState.phase = .drawing ⟨.sc, 0, 5, 3, 0xFFFFFFFF⟩ ∧
    (∃ t, rejectingState.hostWaits.produce .sc 0 = some (0xFFFFFFFF, t)) ∧ ¬ (0xFFFFFFFF#32).toNat < 0xFFFFFFFF :=
  ⟨rfl, rfl, ⟨_, rfl⟩, by decide, rfl, rfl, ⟨_, rfl⟩, by decide⟩
theorem witness_StepEndsARejectedFrame : hostMove (State.reset.withFetchWord 32 0x60000000) = none ∧
    (State.reset.withFetchWord 32 0x60000000).phase = .busy [0x60000000] ∧
    decode (State.reset.withFetchWord 32 0x60000000).cfg.maxFrameWords [0x60000000] = .error .illegalOpcode :=
  ⟨rfl, by decide, by decide⟩
theorem witness_port_accepts : (submitting none .idle).host.script = [.submit [0x21000000]] ∧
    (submitting none .idle).port = none ∧ (submitting none .idle).phase = .idle := by decide
theorem witness_port_holds : (submitting none (.done [0])).host.script = [.submit [0x21000000]] ∧
    (submitting none (.done [0])).port = none ∧ (submitting none (.done [0])).phase ≠ .idle := by decide
theorem witness_port_full : (submitting (some []) .idle).host.script = [.submit [0x21000000]] ∧
    (submitting (some []) .idle).port ≠ none := by decide
theorem witness_port_takes_held : hostMove (submitting (some []) .idle) = none ∧
    (submitting (some []) .idle).phase = .idle ∧ (submitting (some []) .idle).port = some [] := ⟨rfl, rfl, rfl⟩
theorem witness_port_idle : hostMove State.reset = none ∧ State.reset.phase = .idle ∧ State.reset.port = none :=
  ⟨rfl, rfl, rfl⟩
theorem witness_response_waits : (State.reset.setPhase (.done [0])).phase = .done [0] ∧
    hostMove (State.reset.setPhase (.done [0])) = none := ⟨rfl, rfl⟩
theorem witness_response_read :
    ((State.reset.setPhase (.done [0])).withScript [.read]).phase = .done [0] ∧
    ((State.reset.setPhase (.done [0])).withScript [.read]).host.script = [.read] := ⟨rfl, rfl⟩
theorem witness_OneResponseForEachAcceptedFrame :
    (∀ c rest, (submitting none .idle).host.script ≠ .reset c :: rest) ∧
    step (submitting none .idle) = .next (((submitting none .idle).withScript []).setPhase (.busy [0x21000000])) :=
  ⟨(by intro c rest h; cases h), rfl⟩
theorem witness_ResetAbandonsTheCommand :
    (drawingState.withScript [.reset defaultConfig]).host.script = [.reset defaultConfig] ∧
    defaultConfig.legal = true := ⟨rfl, by decide⟩
theorem witness_IllegalConfigurationIsRefused :
    (∃ r ∈ ({ defaultConfig with scRounds := [6] } : Config).scRounds, r < 4 ∨ r % 4 ≠ 0) ∧
    (∃ k, unitCount { defaultConfig with numLf := 257 } k = 0 ∨ 256 < unitCount { defaultConfig with numLf := 257 } k) :=
  ⟨⟨6, by decide⟩, ⟨.lf, by decide⟩⟩
theorem witness_ParametersFixedBetweenResets :
    (∀ c rest, State.reset.host.script ≠ .reset c :: rest) ∧ step State.reset = .next State.reset :=
  ⟨(by intro c rest h; cases h), rfl⟩
theorem witness_rates : 1 ≤ (25#5).toNat ∧ (25#5).toNat ≤ 25 ∧ 25 < (26#5).toNat ∧ (0#5).toNat = 0 := by decide
theorem witness_PaddingLayout : 1 ≤ 9 ∧ 8 < (([] : List Word).length / 9 + 1) * 9 := by decide
theorem witness_ShorterOutputBeginsLonger : 1 ≤ 2 := by decide
theorem witness_AbsorbOneBlock : [1, 2, 3].length = 3 ∧ 1 ≤ 3 ∧ 3 ≤ 25 := by decide
theorem witness_SqueezedWord : 1 ≤ 25 ∧ 25 ≤ 25 ∧ 26 < 27 := by decide
theorem witness_ThetaChiIotaWords (a : Lanes) : ∃ par : Fin 5 → Word, ∀ z, par z =
    laneAt a z 0 ^^^ laneAt a z 1 ^^^ laneAt a z 2 ^^^ laneAt a z 3 ^^^ laneAt a z 4 := ⟨_, fun _ => rfl⟩
theorem witness_SeedScCompletes : (small 0).scg[(0#8).toNat]? = some (scWith 0 16) := rfl
theorem witness_SeedTrLfCompletes : (0#8).toNat < (small 0).trg.length ∧ (0#8).toNat < (small 0).lfg.length := by decide
theorem witness_SeedingForgetsTheOldState : (small 0).cfg = (small 1).cfg ∧
    (∃ s' t', exec (.seedSc 0 []) (small 0) = .next s' ∧ exec (.seedSc 0 []) (small 1) = .next t') ∧
    (∃ s' t', exec (.seedTr 0 []) (small 0) = .next s' ∧ exec (.seedTr 0 []) (small 1) = .next t') ∧
    (∃ s' t', exec (.seedLf 0 []) (small 0) = .next s' ∧ exec (.seedLf 0 []) (small 1) = .next t') ∧
    (small 0).scg[(0#8).toNat]? = some (scWith 0 16) ∧ (small 1).scg[(0#8).toNat]? = some (scWith 1 16) ∧
    (∀ k : Fin 4, (scWith 0 16).core[k.val] = (scWith 1 16).core[k.val]) :=
  ⟨rfl, ⟨_, _, rfl, rfl⟩, ⟨_, _, rfl, rfl⟩, ⟨_, _, rfl, rfl⟩, rfl, rfl, fun _ => rfl⟩
theorem witness_NextScCompletes_words : (small 7).scg[(0#8).toNat]? = some (scWith 7 16) ∧ (scWith 7 16).seeded = true ∧
    0 < (scWith 7 16).remaining.val := ⟨rfl, rfl, by decide⟩
theorem witness_NextScCompletes_refill :
    (stateWith (scWith 7 0) trV42 (lfWith 0)).scg[(0#8).toNat]? = some (scWith 7 0) ∧ (scWith 7 0).seeded = true ∧
    (scWith 7 0).remaining.val = 0 := ⟨rfl, rfl, rfl⟩
theorem witness_DisjointQuarterRoundsCommute : ([0, 4, 8, 12, 1, 5, 9, 13] : List (Fin 16)).Nodup := by decide
theorem witness_NextTrCompletes : (small 0).trg[(0#8).toNat]? = some trV42 ∧ trV42.seeded = true := ⟨rfl, rfl⟩
theorem witness_NextLfCompletes : (small 0).lfg[(0#8).toNat]? = some (lfWith 0) ∧ (lfWith 0).seeded = true := ⟨rfl, rfl⟩
theorem witness_RdblCompletes : ∀ k, (small 0).isSeeded k (0#8).toNat = true := by intro k; cases k <;> rfl
theorem witness_DoubleIsExact : (0x81#32 : Word) ≠ 0 := by decide
theorem witness_BoundIsTheLargestMultiple : 1 ≤ 2 ^ 32 ∧ 2 ^ 32 ≤ 2 ^ 32 ∧ 2 ^ 32 = 2 ^ 32 := by decide
theorem witness_RangeIsExactlyUniform : 1 ≤ 3 ∧ 3 ≤ 2 ^ 32 ∧ (0#32).toNat < rangeBound 3 ∧ 2 < 3 := by decide
theorem witness_OffsetIsADivision : 1 ≤ 3 ∧ 3 ≤ 2 ^ 32 ∧ (0xFFFFFFFE#32).toNat < rangeBound 3 := by decide
/-- The word 0x81 of V42 on RRANGE.TR #0, 0, 2 (n = 3). -/
theorem witness_RrangeCompletes : (small 0).isSeeded .tr (0#8).toNat = true ∧ (0#64).toInt ≤ (2#64).toInt ∧
    ((3 : Nat) : Int) = (2#64).toInt - (0#64).toInt + 1 ∧ 3 ≤ 2 ^ 32 ∧
    (small 0).produce .tr (0#8).toNat = some (0x81, (small 0).setTrg [(produceTr trV42).2]) ∧
    (0x81#32).toNat < 2 ^ 32 - 2 ^ 32 % 3 := ⟨rfl, by decide, by decide, by decide, by decide +kernel, by decide⟩
/-- The same word on RINDEX.TR #0, 3. -/
theorem witness_RindexCompletes : (small 0).isSeeded .tr (0#8).toNat = true ∧ (3#64).toInt = ((3 : Nat) : Int) ∧ 1 ≤ 3 ∧
    3 ≤ 2 ^ 32 ∧ (small 0).produce .tr (0#8).toNat = some (0x81, (small 0).setTrg [(produceTr trV42).2]) ∧
    (0x81#32).toNat < 2 ^ 32 - 2 ^ 32 % 3 := ⟨rfl, by decide, by decide, by decide, by decide +kernel, by decide⟩
theorem witness_RindexDelegatesToRrange : 0 ≤ (0#64).toInt ∧ 0 ≤ (3#64).toInt := by decide
/-- A rejected word: V67, n = 3. -/
theorem witness_RejectedWordStaysInTheLoop : (small 0xFFFFFFFF).isSeeded .sc (0#8).toNat = true ∧
    (5#64).toInt ≤ (7#64).toInt ∧ ((3 : Nat) : Int) = (7#64).toInt - (5#64).toInt + 1 ∧ 3 ≤ 2 ^ 32 ∧
    (∃ t, (small 0xFFFFFFFF).produce .sc (0#8).toNat = some (0xFFFFFFFF, t)) ∧
    2 ^ 32 - 2 ^ 32 % 3 ≤ (0xFFFFFFFF#32).toNat :=
  ⟨rfl, by decide, by decide, by decide, ⟨_, rfl⟩, by decide⟩
/-- P5, run 1: word 0 is rejected and word 1 accepted. -/
theorem witness_DrawLoopEndsAtTheFirstAcceptedWord :
    (stateWith (scWith 0 16) trV40 (lfWith 0)).drawnWord .tr 0 0 = some 0xEAD4E64A ∧
    (stateWith (scWith 0 16) trV40 (lfWith 0)).drawnWord .tr 0 1 = some 0x62899119 ∧
    rangeBound (2 ^ 31 + 1) ≤ (0xEAD4E64A#32).toNat ∧ (0x62899119#32).toNat < rangeBound (2 ^ 31 + 1) ∧
    ((2 ^ 31 + 1 : Nat) : Int) = (0x80000000#64).toInt - (0#64).toInt + 1 ∧ (0#64).toInt ≤ (0x80000000#64).toInt := by
  decide +kernel
/-- Both clauses: a frame that fails a check and one that fails none. -/
theorem witness_FirstFailingCheckDecides : firstError State.reset [0x21000000] = some .notSeeded ∧
    firstError (small 0) [0x21000000] = none := by decide +kernel
theorem witness_ArgumentErrorsOfRangeCommands : (0#8).toNat < State.reset.num .lf ∧
    (0xFFFFFFFFFFFFFFFF#64).toInt < 0 ∧ (2 : Int) ^ 32 < (0x100000001#64).toInt ∧ (3#64).toInt < (5#64).toInt ∧
    (2 : Int) ^ 32 < (0x100000000#64).toInt - (0#64).toInt + 1 := by decide
theorem witness_UnseededUnitIsNotSeeded : (0#8).toNat < State.reset.num .sc ∧ State.reset.isSeeded .sc (0#8).toNat = false ∧
    (5#64).toInt ≤ (5#64).toInt ∧ (5#64).toInt - (5#64).toInt + 1 ≤ 2 ^ 32 ∧ 1 ≤ (1#64).toInt ∧ (1#64).toInt ≤ 2 ^ 32 := by
  decide
theorem witness_ErrorsWriteNothing : exec (.nextTr 0) State.reset = .next (State.reset.setPhase (.done [0x09])) := rfl
theorem witness_CommandFrame : ∃ t, exec (.nextTr 0) (small 0) = .next t ∧ t.isSeeded .tr 0 = true := ⟨_, rfl, rfl⟩
theorem witness_DrawFrame : ∃ t, drawStep ⟨.tr, 0, 0, 3, 0xFFFFFFFF⟩ drawingState = .next t :=
  drawStep_answers (by decide)
theorem witness_OnlySeedWritesSeeded : (∀ k, (Instr.nextTr 0).opcode ≠ .seed k) ∧
    (∃ t, exec (.seedTr 0 []) State.reset = .next t) ∧ (Instr.seedTr 0 []).opcode = .seed .tr ∧
    target (.seedTr 0 []) = some (.tr, 0) ∧ 0 < State.reset.num .tr :=
  ⟨(by intro k h; cases h), ⟨_, rfl⟩, rfl, rfl, by decide⟩
theorem witness_ScgUnitFrame : ∃ t h, exec (.nextSc 0) (small 7) = .next t ∧ (small 7).scg[0]? = some (scWith 7 16) ∧
    t.scg[0]? = some h ∧ (Instr.nextSc 0).opcode ≠ .seed .sc ∧ (small 7).cfg.scCounterTop = .pos12 ∧
    0 < (scWith 7 16).remaining.val := ⟨_, _, rfl, rfl, rfl, by decide, rfl, by decide⟩

/-- A state inside a draw loop, with an unseeded SCG unit, meets the invariant. -/
def loopState : State := { drawingState with scg := [scgAtReset defaultConfig] }

theorem loopState_inv : loopState.Inv where
  legal := by decide
  scCount := rfl
  trCount := rfl
  lfCount := rfl
  scUnits := by
    intro i g h
    have hg : g = scgAtReset defaultConfig := by
      rcases i with _ | i
      · exact (Option.some.inj h).symm
      · cases h
    subst hg
    exact ⟨by decide, (by intro h; cases h)⟩
  phase := by
    show drawOk loopState ⟨.tr, 0, 0, 3, 0xFFFFFFFF⟩
    exact ⟨rfl, by decide, by decide, by decide, by decide, by decide⟩

theorem witness_EveryStepKeepsTheInvariant : loopState.Inv ∧ ∃ t, step loopState = .next t :=
  ⟨loopState_inv, drawStep_answers (s := loopState) (d := ⟨.tr, 0, 0, 3, 0xFFFFFFFF⟩) (by decide)⟩
theorem witness_StepsNeverStop : loopState.Inv := loopState_inv
theorem witness_BadInstanceExactlyPastTheBank : loopState.Inv ∧ target (.nextTr 1) = some (.tr, 1) ∧
    unitCount loopState.cfg .tr ≤ 1 := ⟨loopState_inv, rfl, by decide⟩
/-- The same state with another unspecified word in the unseeded SCG unit. -/
theorem witness_UnspecifiedValuesAreUnobservable : loopState.Inv ∧
    loopState.Agree { loopState with scg := [{ scgAtReset defaultConfig with out := Vector.replicate 16 5 }] } :=
  ⟨loopState_inv, { cfg := rfl, phase := rfl, port := rfl, host := rfl
                    scg := .cons ⟨rfl, (by intro h; cases h), fun _ => rfl⟩ .nil
                    trg := .cons ⟨rfl, fun _ => rfl⟩ .nil
                    lfg := .cons ⟨rfl, fun _ => rfl⟩ .nil }⟩
theorem witness_CommandsOnDifferentUnitsCommute : disjointTargets (.nextTr 0) (.nextLf 0) ∧
    ∃ s1 s2 ri rj, Completes (.nextTr 0) (small 0) ri s1 ∧ Completes (.nextLf 0) s1 rj s2 :=
  ⟨.inr (.inr (by decide)), _, _, _, _, ⟨0, _, rfl, rfl, rfl⟩, ⟨0, _, rfl, rfl, rfl⟩⟩
/-- The state of P5, run 1, whose RRANGE.TR rejects word 0 and accepts word 1. -/
def p5State : State := stateWith (scWith 0 16) trV40 (lfWith 0)
/-- The first command goes through its draw loop: one rejected word, one micro-step, then the response. -/
theorem witness_CommandsOnDifferentUnitsCommute_loop : disjointTargets (.rrangeTr 0 0 0x80000000) (.nextLf 0) ∧
    ∃ s1 s2 ri rj, Completes (.rrangeTr 0 0 0x80000000) p5State ri s1 ∧ Completes (.nextLf 0) s1 rj s2 :=
  ⟨.inr (.inr (by decide)), _, _, _, _, ⟨1, _, rfl, rfl, rfl⟩, ⟨0, _, rfl, rfl, rfl⟩⟩
theorem witness_InvariantAtReset : defaultConfig.legal = true := by decide

end Sys2Proof.Tests
end

section
/-!
SUPPORT. The decoder's rejections (spec/60_exceptions.md R251, checks 2 and 3) and the two statements about them:
unassigned OPCs (spec/30_encoding.md R83) and reserved header bits (R75).
-/

namespace Sys2Proof

/-! ## The opcode map (R82, R83) -/

theorem opcField_toNat (h : Word) : (opcField h).toNat = h.toNat / 2 ^ 24 := by
  have hh : h.toNat / 2 ^ 24 < 2 ^ 8 := by omega
  rw [opcField, BitVec.extractLsb'_toNat, Nat.shiftRight_eq_div_pow, Nat.mod_eq_of_lt hh]

/-- R83: the unassigned OPCs are the numbers that R82 does not list. -/
theorem opcodeOf_eq_none_iff (opc : BitVec 8) : opcodeOf opc = none ↔
    opc.toNat ∉ [0x01, 0x10, 0x11, 0x12, 0x20, 0x21, 0x22, 0x30, 0x31, 0x32, 0x40, 0x41, 0x42, 0x50, 0x51, 0x52] := by
  unfold opcodeOf
  split
  case h_17 => simp_all [← BitVec.toNat_inj] -- the catch-all: the value differs from every listed one
  all_goals simp

/-! ## The reserved header bits (R75) -/

theorem reservedMask_of_ne_hash {op : Opcode} (hop : op ≠ .hash) : reservedMask op = 0x0000FFFF#32 := by
  cases op
  case hash => exact absurd rfl hop
  all_goals rfl

/-- R75: the bit ranges of the mask. -/
theorem getLsbD_reservedMask (op : Opcode) (b : Nat) : (reservedMask op).getLsbD b = true ↔
    (5 ≤ b ∧ b ≤ 15) ∨ (op = .hash ∧ 16 ≤ b ∧ b ≤ 23) ∨ (op ≠ .hash ∧ b ≤ 4) := by
  by_cases hb : b < 32
  · by_cases hop : op = .hash
    · subst hop
      revert b; decide
    · rw [reservedMask_of_ne_hash hop]
      simp only [hop, false_and, ne_eq, not_false_eq_true, true_and, false_or]
      revert b; decide
  · have hclear : (reservedMask op).getLsbD b = false := BitVec.getLsbD_of_ge _ _ (by omega)
    simp only [hclear, Bool.false_eq_true, false_iff]
    omega

theorem and_ne_zero_iff_exists_getLsbD {n : Nat} (x y : BitVec n) :
    x &&& y ≠ 0 ↔ ∃ b, x.getLsbD b = true ∧ y.getLsbD b = true := by
  constructor
  · intro hxy
    have hbit := BitVec.getLsbD_true_ctz_of_ne_zero hxy
    rw [BitVec.getLsbD_and, Bool.and_eq_true] at hbit
    exact ⟨_, hbit⟩
  · rintro ⟨b, hx, hy⟩ hxy
    simpa [hx, hy] using congrArg (·.getLsbD b) hxy

/-! ## The decoder's rejections of a header (R251, checks 2 and 3) -/

section
variable {m : Option Nat} {h : Word} {rest : List Word} {op : Opcode}

theorem decode_cons_of_unassigned (hopc : opcodeOf (opcField h) = none) :
    decode m (h :: rest) = .error .illegalOpcode := by
  simp [decode, hopc]

theorem decode_cons_of_reserved (hopc : opcodeOf (opcField h) = some op) (hbit : h &&& reservedMask op ≠ 0) :
    decode m (h :: rest) = .error .reservedField := by
  simp only [decode, hopc, if_pos hbit]

/-- Past checks 2 and 3 the decoder turns a frame away only by its length (R241). -/
theorem eq_frameError_of_decode_clear {st : Status} (hopc : opcodeOf (opcField h) = some op)
    (hclear : h &&& reservedMask op = 0) (hdec : decode m (h :: rest) = .error st) : st = .frameError := by
  simp only [decode, hopc, if_neg (not_not_intro hclear)] at hdec
  split at hdec
  · exact (Except.error.inj hdec).symm
  · split at hdec
    · exact (Except.error.inj hdec).symm
    · cases hdec

theorem decode_eq_reservedField_iff (hopc : opcodeOf (opcField h) = some op) :
    decode m (h :: rest) = .error .reservedField ↔ h &&& reservedMask op ≠ 0 := by
  refine ⟨fun hdec hclear => ?_, decode_cons_of_reserved hopc⟩
  cases eq_frameError_of_decode_clear hopc hclear hdec

theorem decode_eq_illegalOpcode_iff :
    decode m (h :: rest) = .error .illegalOpcode ↔ opcodeOf (opcField h) = none := by
  refine ⟨fun hdec => ?_, decode_cons_of_unassigned⟩
  cases hopc : opcodeOf (opcField h) with
  | none => rfl
  | some op =>
    by_cases hclear : h &&& reservedMask op = 0
    · cases eq_frameError_of_decode_clear hopc hclear hdec
    · cases (decode_cons_of_reserved hopc hclear).symm.trans hdec

end

end Sys2Proof

namespace Sys2Proof.Machine

theorem runFrame_of_decode_error {f : Frame} {s : State} {st : Status}
    (hdec : decode s.cfg.maxFrameWords f = .error st) :
    runFrame f s = .next (s.setPhase (.done [statusWord st])) := by
  simp [runFrame, hdec]

/-- Settles O5: the decoder's second check is the opcode map's `none`, and that is the complement of R82's sixteen
values. -/
theorem unassignedOpcodeIsIllegal : Obligations.UnassignedOpcodeIsIllegal := by
  intro s h rest
  rw [← opcField_toNat, ← opcodeOf_eq_none_iff]
  exact ⟨decode_eq_illegalOpcode_iff, fun hopc => runFrame_of_decode_error (decode_cons_of_unassigned hopc)⟩

/-- Settles O6: the decoder's third check is that the header meets the reserved mask, bit by bit. -/
theorem reservedBitEndsTheCommand : Obligations.ReservedBitEndsTheCommand := by
  intro s h rest op hopc
  refine ⟨?_, runFrame_of_decode_error⟩
  rw [decode_eq_reservedField_iff hopc, and_ne_zero_iff_exists_getLsbD]
  simp only [getLsbD_reservedMask]

end Sys2Proof.Machine
end

section
/-!
SUPPORT. The padded buffer of the sponge (spec/40_sponge.md R102): `pad` as one list, its length and each of its words.
-/

namespace Sys2Proof.Machine

/-- R102's gap is never empty: the buffer always has room for the word 1 after the input. -/
theorem lt_paddedLength (len : Nat) {r : Nat} (hr : 1 ≤ r) : len < paddedLength len r := by
  rw [paddedLength, Nat.mul_comm]
  exact Nat.lt_mul_div_succ len hr

/-- R102 in one equation: the gap starts with the word 1, and the top bit goes into the last word. -/
theorem pad_eq (input : List Word) {r : Nat} (hr : 1 ≤ r) :
    pad input r = (input ++ 1 :: List.replicate (paddedLength input.length r - input.length - 1) 0).modify
      (paddedLength input.length r - 1) (· ^^^ 0x80000000) := by
  obtain ⟨gap, hgap⟩ := Nat.exists_eq_add_of_lt (lt_paddedLength input.length hr)
  have hlen : paddedLength input.length r - input.length = gap + 1 := by omega
  simp [pad, hlen, List.replicate_succ]

theorem length_pad (input : List Word) {r : Nat} (hr : 1 ≤ r) :
    (pad input r).length = paddedLength input.length r := by
  have hlt := lt_paddedLength input.length hr
  rw [pad_eq input hr, List.length_modify, List.length_append, List.length_cons, List.length_replicate]
  omega

theorem getElem?_append_one_zeros (input : List Word) {n k : Nat} (hk : k < input.length + 1 + n) :
    (input ++ 1 :: List.replicate n 0)[k]? =
      some (if k < input.length then input.getD k 0 else if k = input.length then 1 else 0) := by
  rcases lt_trichotomy k input.length with hlt | rfl | hgt
  · simp [hlt, List.getElem?_append_left]
  · simp
  · obtain ⟨j, rfl⟩ := Nat.exists_eq_add_of_lt hgt
    have hj : j < n := by omega
    rw [List.getElem?_append_right hgt.le, Nat.add_assoc, Nat.add_sub_cancel_left, List.getElem?_cons_succ,
      List.getElem?_replicate_of_lt hj, if_neg (by omega), if_neg (by omega)]

/-- R102 word by word. Where the gap is one word, the word 1 and the top bit meet in it. -/
theorem getElem?_pad (input : List Word) {r k : Nat} (hr : 1 ≤ r) (hk : k < paddedLength input.length r) :
    (pad input r)[k]? = some
      ((if k < input.length then input.getD k 0 else if k = input.length then 1 else 0) ^^^
        (if k + 1 = paddedLength input.length r then 0x80000000 else 0)) := by
  have hlt := lt_paddedLength input.length hr
  rw [pad_eq input hr, List.getElem?_modify, getElem?_append_one_zeros input (by omega), Option.map_eq_map,
    Option.map_some]
  by_cases hlast : k + 1 = paddedLength input.length r
  · rw [if_pos hlast, if_pos (by omega)]
  · rw [if_neg hlast, if_neg (by omega)]
    exact congrArg some BitVec.xor_zero.symm

/-- Settles O18: `paddedLength` is R102's length by definition, so `length_pad` and `getElem?_pad` are the two halves. -/
theorem paddingLayout : Obligations.PaddingLayout :=
  fun input _ hr => ⟨length_pad input hr, fun _ hk => getElem?_pad input hr hk⟩

end Sys2Proof.Machine
end

section
/-!
SUPPORT. The bound of the rejection sampler (spec/41_base_contract.md R140): its two defining properties, a multiple of
n up to 2^32 and the largest one, and what follows from them.
-/

namespace Sys2Proof.Machine

theorem dvd_rangeBound (n : Nat) : n ∣ rangeBound n := Nat.dvd_sub_mod _

theorem rangeBound_le (n : Nat) : rangeBound n ≤ 2 ^ 32 := Nat.sub_le _ _

theorem rangeBound_add_mod (n : Nat) : rangeBound n + 2 ^ 32 % n = 2 ^ 32 := Nat.sub_add_cancel (Nat.mod_le _ _)

theorem rangeBound_eq_div_mul (n : Nat) : rangeBound n = 2 ^ 32 / n * n := Nat.div_mul_self_eq_mod_sub_self.symm

/-- R140: no multiple of n up to 2^32 is larger. -/
theorem le_rangeBound_of_dvd {n m : Nat} (hdvd : n ∣ m) (hm : m ≤ 2 ^ 32) : m ≤ rangeBound n :=
  calc m = m / n * n := (Nat.div_mul_cancel hdvd).symm
    _ ≤ 2 ^ 32 / n * n := Nat.mul_le_mul_right n (Nat.div_le_div_right hm)
    _ = rangeBound n := (rangeBound_eq_div_mul n).symm

/-- R140: the rejected words, fewer than n, are fewer than the accepted ones, of which there are n or more. -/
theorem lt_rangeBound {n : Nat} (hn : 1 ≤ n) (hle : n ≤ 2 ^ 32) : 2 ^ 31 < rangeBound n := by
  have haccepted : n ≤ rangeBound n := le_rangeBound_of_dvd dvd_rfl hle
  have hrejected : 2 ^ 32 % n < n := Nat.mod_lt _ hn
  have hsum := rangeBound_add_mod n
  omega

theorem rangeBound_two_pow {e : Nat} (he : 2 ^ e ≤ 2 ^ 32) : rangeBound (2 ^ e) = 2 ^ 32 := by
  have hdvd : 2 ^ e ∣ 2 ^ 32 := Nat.pow_dvd_pow 2 ((Nat.pow_le_pow_iff_right Nat.one_lt_two).mp he)
  exact Nat.le_antisymm (rangeBound_le _) (le_rangeBound_of_dvd hdvd le_rfl)

/-- Settles O38. -/
theorem boundIsTheLargestMultiple : Obligations.BoundIsTheLargestMultiple := by
  intro n hn hle
  refine ⟨dvd_rangeBound n, rangeBound_le n, fun _ => le_rangeBound_of_dvd, lt_rangeBound hn hle, ?_⟩
  rintro e rfl
  exact rangeBound_two_pow hle

end Sys2Proof.Machine
end

section
/-!
SUPPORT. The unit that SEED leaves (spec/41_base_contract.md R131, R137): what the seeded unit is after the command, for
each kind, and that an SCG seeding reads only the constants of the old unit.
-/

namespace Sys2Proof.Machine

/-! ## The seeded unit (R131) -/

/-- SEED on a unit of the bank has one outcome. -/
theorem seedCommand_of_lt {k : Kind} {inst : BitVec 8} {s : State} (hlt : inst.toNat < s.num k) (w : List Word) :
    seedCommand k inst w s = .next ((s.seedUnit k inst.toNat w).setPhase (.done [statusWord .ok])) :=
  requireUnit_of_lt hlt _

theorem seedUnit_scg_getElem? {i : Nat} {s : State} {g : Scg} (hg : s.scg[i]? = some g) (w : List Word) :
    (s.seedUnit .sc i w).scg[i]? = some (initStateSc (s.cfg.roundsOf i) g (seedVector w seedWordsSc)) := by
  simp [State.seedUnit, hg]

theorem seedUnit_trg_getElem? {i : Nat} {s : State} (hlt : i < s.trg.length) (w : List Word) :
    (s.seedUnit .tr i w).trg[i]? = some (initStateTr (seedVector w seedWordsTr)) := by
  simp [State.seedUnit, hlt]

theorem seedUnit_lfg_getElem? {i : Nat} {s : State} (hlt : i < s.lfg.length) (w : List Word) :
    (s.seedUnit .lf i w).lfg[i]? = some (initStateLf (seedVector w seedWordsLf)) := by
  simp [State.seedUnit, hlt]

section
variable {inst : BitVec 8} {w : List Word} {s t : State}

theorem exec_seedSc_getElem? {g : Scg} (hexec : exec (.seedSc inst w) s = .next t)
    (hg : s.scg[inst.toNat]? = some g) :
    t.scg[inst.toNat]? = some (initStateSc (s.cfg.roundsOf inst.toNat) g (seedVector w seedWordsSc)) := by
  have hlt : inst.toNat < s.num .sc := (List.getElem?_eq_some_iff.mp hg).1
  cases (seedCommand_of_lt hlt w).symm.trans hexec
  exact seedUnit_scg_getElem? hg w

theorem exec_seedTr_getElem? (hexec : exec (.seedTr inst w) s = .next t) (hlt : inst.toNat < s.trg.length) :
    t.trg[inst.toNat]? = some (initStateTr (seedVector w seedWordsTr)) := by
  cases (seedCommand_of_lt (k := .tr) hlt w).symm.trans hexec
  exact seedUnit_trg_getElem? hlt w

theorem exec_seedLf_getElem? (hexec : exec (.seedLf inst w) s = .next t) (hlt : inst.toNat < s.lfg.length) :
    t.lfg[inst.toNat]? = some (initStateLf (seedVector w seedWordsLf)) := by
  cases (seedCommand_of_lt (k := .lf) hlt w).symm.trans hexec
  exact seedUnit_lfg_getElem? hlt w

end

/-! ## What an SCG seeding reads of the old unit (R137, R171) -/

/-- R171: the seeded core takes only `core[0..3]` from the old one. -/
theorem scSeedCore_congr {core core' : Block} (hconst : ∀ k : Fin 4, core[k.val] = core'[k.val])
    (v : Vector Word 10) : scSeedCore core v = scSeedCore core' v := by
  refine Vector.ext fun k hk => ?_
  by_cases hk4 : k < 4
  · simpa [scSeedCore, hk4] using hconst ⟨k, hk4⟩
  · simp [scSeedCore, hk4]

theorem initStateSc_congr {g h : Scg} (hconst : ∀ k : Fin 4, g.core[k.val] = h.core[k.val]) (rounds : Nat)
    (v : Vector Word 10) : initStateSc rounds g v = initStateSc rounds h v := by
  simp only [initStateSc, scSeedCore_congr hconst]

/-- Settles O29: `initStateTr` and `initStateLf` read nothing of the old unit, and `initStateSc` its constants alone. -/
theorem seedingForgetsTheOldState : Obligations.SeedingForgetsTheOldState := by
  intro inst w s t s' t' hcfg
  refine ⟨?sc, ?tr, ?lf⟩
  case sc =>
    intro hs ht g h hg hh hconst
    rw [exec_seedSc_getElem? hs hg, exec_seedSc_getElem? ht hh, hcfg, initStateSc_congr hconst]
  case tr =>
    intro hs ht hslt htlt
    rw [exec_seedTr_getElem? hs hslt, exec_seedTr_getElem? ht htlt]
  case lf =>
    intro hs ht hslt htlt
    rw [exec_seedLf_getElem? hs hslt, exec_seedLf_getElem? ht htlt]

end Sys2Proof.Machine
end

section
/-!
SUPPORT. The SCG counter (spec/42_stream_cipher.md R175): which words the increment writes, and the number it leaves.
-/

namespace Sys2Proof.Machine

variable {is : List (Fin 16)}

/-! ## The limb the increment starts at -/

theorem incrementLimbs_cons (i : Fin 16) (is : List (Fin 16)) (core : Block) :
    incrementLimbs (i :: is) core =
      if core[i] + 1 = 0 then incrementLimbs is (core.set i 0) else core.set i (core[i] + 1) := by
  by_cases hwrap : core[i.val] + 1#32 = 0#32 <;> simp [incrementLimbs, add32, hwrap]

theorem getElem_incrementLimbs_of_notMem {k : Fin 16} (hk : k ∉ is) (core : Block) :
    (incrementLimbs is core)[k] = core[k] := by
  induction is generalizing core with
  | nil => rfl
  | cons i is ih =>
    obtain ⟨hki, hkis⟩ := not_or.mp (mt List.mem_cons.mpr hk)
    have hset (w : Word) : (core.set i w)[k] = core[k] := by simp [Fin.val_ne_of_ne (Ne.symm hki)]
    rw [incrementLimbs_cons]
    split
    · rw [ih hkis, hset]
    · exact hset _

/-! ## The number the limbs hold -/

theorem counterValue_set_of_notMem {i : Fin 16} (hi : i ∉ is) (core : Block) (w : Word) :
    counterValue is (core.set i w) = counterValue is core := by
  induction is with
  | nil => rfl
  | cons j is ih =>
    obtain ⟨hij, hiis⟩ := not_or.mp (mt List.mem_cons.mpr hi)
    simp [counterValue, ih hiis, Fin.val_ne_of_ne hij]

theorem counterValue_lt (is : List (Fin 16)) (core : Block) : counterValue is core < 2 ^ (32 * is.length) := by
  induction is with
  | nil => simp [counterValue]
  | cons i is ih =>
    have hlimb : core[i].toNat < 2 ^ 32 := core[i].isLt
    rw [counterValue, List.length_cons, Nat.mul_succ, Nat.pow_add]
    omega

/-- R175: the carry goes on exactly from a limb that wraps, and the carry out of the last limb is dropped. -/
theorem counterValue_incrementLimbs (hnodup : is.Nodup) (core : Block) :
    counterValue is (incrementLimbs is core) = (counterValue is core + 1) % 2 ^ (32 * is.length) := by
  induction is generalizing core with
  | nil => simp [counterValue]
  | cons i is ih =>
    obtain ⟨hi, hnodup⟩ := List.nodup_cons.mp hnodup
    have hpow : 2 ^ (32 * (i :: is).length) = 2 ^ 32 * 2 ^ (32 * is.length) := by
      rw [List.length_cons, Nat.mul_succ, Nat.add_comm, Nat.pow_add]
    rw [incrementLimbs_cons, hpow]
    split
    next hwrap =>
      have hlimb : core[i].toNat + 1 = 2 ^ 32 := by bv_omega
      have hclear : (incrementLimbs is (core.set i 0))[i].toNat = 0 := by
        rw [getElem_incrementLimbs_of_notMem hi]; simp
      have hsum : counterValue (i :: is) core + 1 = 2 ^ 32 * (counterValue is core + 1) := by
        rw [counterValue]; omega
      rw [hsum, Nat.mul_mod_mul_left, counterValue, hclear, ih hnodup, counterValue_set_of_notMem hi, Nat.zero_add]
    next hwrap =>
      have hlimb : (core[i] + 1).toNat = core[i].toNat + 1 := by bv_omega
      have hset : (core.set i (core[i] + 1))[i].toNat = core[i].toNat + 1 := by rw [← hlimb]; simp
      have hfits := counterValue_lt is core
      rw [counterValue, counterValue, hset, counterValue_set_of_notMem hi, Nat.mod_eq_of_lt (by omega)]
      omega

/-! ## The counter of a configured top -/

theorem nodup_counterLimbs (top : CounterTop) : (counterLimbs top).Nodup := by
  cases top <;> decide

theorem counterValue_scIncrement (top : CounterTop) {bits : Nat} (hbits : 32 * (counterLimbs top).length = bits)
    (core : Block) : counterValue (counterLimbs top) (scIncrement top core) =
      (counterValue (counterLimbs top) core + 1) % 2 ^ bits :=
  hbits ▸ counterValue_incrementLimbs (nodup_counterLimbs top) core

theorem notMem_counterLimbs_pos12 : ∀ k : Fin 16, k.val < 12 → k ∉ counterLimbs .pos12 := by decide

theorem notMem_counterLimbs_pos4 : ∀ k : Fin 16, k.val < 4 → k ∉ counterLimbs .pos4 := by decide

/-- Settles O31: the increment of a limb list, taken at the four and at the twelve limbs of the two counters. -/
theorem counterIncrementAddsOne : Obligations.CounterIncrementAddsOne := fun core =>
  ⟨counterValue_scIncrement .pos12 (bits := 128) rfl core,
    fun k hk => getElem_incrementLimbs_of_notMem (notMem_counterLimbs_pos12 k hk) core,
    counterValue_scIncrement .pos4 (bits := 384) rfl core,
    fun k hk => getElem_incrementLimbs_of_notMem (notMem_counterLimbs_pos4 k hk) core⟩

end Sys2Proof.Machine
end

section
/-!
SUPPORT. NEXT on a seeded unit (spec/41_base_contract.md R130), and the production of an SCG unit
(spec/42_stream_cipher.md R180) with words left and with none.
-/

namespace Sys2Proof.Machine

/-- NEXT of a seeded unit passes its checks and answers the unit's next word. -/
theorem nextCommand_of_produce {k : Kind} {inst : BitVec 8} {s t : State} {w : Word}
    (hseeded : s.isSeeded k inst.toNat = true) (hprod : s.produce k inst.toNat = some (w, t)) :
    nextCommand k inst s = .next (t.setPhase (.done [0x00, w])) := by
  rw [nextCommand, requireUnit_of_lt (isSeeded_lt hseeded), requireSeeded_of hseeded, draw_of_produce hprod]
  rfl

theorem exec_nextSc_of_seeded {inst : BitVec 8} {s : State} {g : Scg} (hg : s.scg[inst.toNat]? = some g)
    (hseeded : g.seeded = true) :
    exec (.nextSc inst) s =
      .next ((s.setScg (s.scg.set inst.toNat (produceSc s.cfg.scCounterTop (s.cfg.roundsOf inst.toNat) g).2)).setPhase
        (.done [0x00, (produceSc s.cfg.scCounterTop (s.cfg.roundsOf inst.toNat) g).1])) :=
  nextCommand_of_produce (k := .sc) (by simp [State.isSeeded, hg, hseeded]) (by rw [produce_sc, hg]; rfl)

section
variable {g : Scg} (top : CounterTop) (rounds : Nat)

theorem produceSc_of_pos (hpos : 0 < g.remaining.val) : produceSc top rounds g = scTake g := by
  rw [produceSc, if_neg (Nat.pos_iff_ne_zero.mp hpos)]

theorem produceSc_of_zero (hzero : g.remaining.val = 0) : produceSc top rounds g = scTake (scRefill top rounds g) := by
  rw [produceSc, if_pos hzero]

end

/-- R180, D16: the index `16 - remaining` is in range while a word is left. -/
theorem scTake_fst_of_pos {g : Scg} (hpos : 0 < g.remaining.val) :
    (scTake g).1 = g.out.toList.getD (16 - g.remaining.val) 0 := by
  have hlt : 16 - g.remaining.val < 16 := by omega
  simp [scTake, scNextIndex, Nat.mod_eq_of_lt hlt, hlt]

/-- Settles O30: the checks pass, and Produce_SC takes from the unit's own words or from those of the refill. -/
theorem nextScCompletes : Obligations.NextScCompletes := by
  intro inst s g hg hseeded
  rw [exec_nextSc_of_seeded hg hseeded]
  refine ⟨fun hpos => ?words, fun hzero => ?refill⟩
  case words =>
    rw [produceSc_of_pos _ _ hpos, scTake_fst_of_pos hpos]
    exact ⟨_, rfl, rfl, rfl, Nat.sub_add_cancel hpos, hseeded⟩
  case refill =>
    rw [produceSc_of_zero _ _ hzero]
    exact ⟨_, rfl, rfl, rfl, rfl, hseeded⟩

end Sys2Proof.Machine
end

section
/-!
SUPPORT. SEED.TR (spec/43_tempered.md R200): a seeding of a TRG unit replaces the whole unit, and the words it leaves.
-/

namespace Sys2Proof.Machine

/-- R130, R131: word `k` of the seed vector is word `k` of SpongeHash at rate 17. -/
theorem getElem_seedVector (w : List Word) {m k : Nat} (hk : k < m) :
    (seedVector w m)[k] = (spongeHash w m 17).getD k 0 := by
  simp [seedVector, seedRate, spongeHash_length, hk]

theorem seedUnit_tr_eq_set (i : Nat) (w : List Word) (s : State) :
    s.seedUnit .tr i w = s.setTrg (s.trg.set i (initStateTr (seedVector w seedWordsTr))) := by
  simp [State.seedUnit, List.set_eq_modify]

/-- R200: the low bit of word 0 is forced, the other words are copied. -/
theorem getElem_initStateTr_v (v : Vector Word 32) (k : Fin 32) :
    (initStateTr v).v[k] = if k = 0 then v[0] ||| 1 else v[k] := by
  by_cases hk : k = 0
  · subst hk; simp [initStateTr]
  · have hval : 0 ≠ k.val := fun h => hk (Fin.ext h.symm)
    simp [initStateTr, hk, hval]

/-- Settles O27: the unit check passes, and the unit of the bank becomes InitState_TR of the seed vector. -/
theorem seedTrCompletes : Obligations.SeedTrCompletes := by
  intro inst w s hlt
  refine ⟨initStateTr (seedVector w 32), ?outcome, fun k => ?words, rfl, rfl⟩
  case outcome =>
    rw [← seedUnit_tr_eq_set]
    exact seedCommand_of_lt (k := .tr) hlt w
  case words =>
    rw [getElem_initStateTr_v, getElem_seedVector, Fin.getElem_fin, getElem_seedVector]

end Sys2Proof.Machine
end

section
/-!
SUPPORT. SEED.LF and NEXT.LF (spec/44_lagged_fib.md): the words a seeding leaves in an LFG unit (R220), and the word,
the write and the index step of one production (R226).
-/

namespace Sys2Proof.Machine

/-- One word written at a `Fin` index, read back at another: how seeding and production both change `V`. -/
theorem getElem_set_fin {n : Nat} (v : Vector Word n) (i k : Fin n) (w : Word) :
    (v.set i w)[k] = if k = i then w else v[k] := by
  by_cases hk : k = i
  · subst hk; simp
  · have hval : i.val ≠ k.val := Fin.val_ne_of_ne (Ne.symm hk)
    simp [hk, hval]

/-! ## SEED.LF (R220) -/

theorem seedUnit_lf_eq_set (i : Nat) (w : List Word) (s : State) :
    s.seedUnit .lf i w = s.setLfg (s.lfg.set i (initStateLf (seedVector w seedWordsLf))) := by
  simp [State.seedUnit, List.set_eq_modify]

/-- R220: the low bit of word 0 is forced, the other words are copied. -/
theorem getElem_initStateLf_v (v : Vector Word 256) (k : Fin 256) :
    (initStateLf v).v[k] = if k = 0 then v[0] ||| 1 else v[k] :=
  getElem_set_fin v 0 k _

/-- Settles O28: the unit check passes, and the unit of the bank becomes InitState_LF of the seed vector. -/
theorem seedLfCompletes : Obligations.SeedLfCompletes := by
  intro inst w s hlt
  refine ⟨initStateLf (seedVector w 256), ?outcome, fun k => ?words, rfl, rfl⟩
  case outcome =>
    rw [← seedUnit_lf_eq_set]
    exact seedCommand_of_lt (k := .lf) hlt w
  case words =>
    rw [getElem_initStateLf_v, getElem_seedVector, Fin.getElem_fin, getElem_seedVector]

/-! ## NEXT.LF (R226) -/

theorem exec_nextLf_of_seeded {inst : BitVec 8} {s : State} {g : Lfg} (hg : s.lfg[inst.toNat]? = some g)
    (hseeded : g.seeded = true) :
    exec (.nextLf inst) s =
      .next ((s.setLfg (s.lfg.set inst.toNat (produceLf g).2)).setPhase (.done [0x00, (produceLf g).1])) :=
  nextCommand_of_produce (k := .lf) (by simp [State.isSeeded, hg, hseeded]) (by rw [produce_lf, hg]; rfl)

/-- R226: the three additions mod 2^32 give the sum of the four taps mod 2^32. -/
theorem toNat_lfSum (v : Vector Word 256) (i : Fin 256) :
    (lfSum v i).toNat = (v[i].toNat + v[i + 201].toNat + v[i + 137].toNat + v[i + 77].toNat) % 2 ^ 32 := by
  simp only [lfSum, add32, BitVec.toNat_add, Nat.mod_add_mod]

/-- R226: the produced word is written at the index, and the other words stay. -/
theorem getElem_produceLf_v (g : Lfg) (k : Fin 256) :
    (produceLf g).2.v[k] = if k = g.idx then (produceLf g).1 else g.v[k] :=
  getElem_set_fin g.v g.idx k _

/-- Settles O35: the checks pass, and Produce_LF gives the four-tap sum, writes it at the index and moves the index. -/
theorem nextLfCompletes : Obligations.NextLfCompletes := fun _ _ g hg hseeded =>
  ⟨(produceLf g).1, (produceLf g).2, toNat_lfSum g.v g.idx, exec_nextLf_of_seeded hg hseeded, Fin.val_add g.idx 1,
    hseeded, getElem_produceLf_v g⟩

end Sys2Proof.Machine
end

section
/-!
SUPPORT. Check 4 of spec/60_exceptions.md R251: the frames the decoder turns away for their length (R84, R241), and the
frames it accepts.
-/

namespace Sys2Proof

/-- R241: the frame is past a bound the parameter gives. -/
theorem overlong_iff {maxWords : Option Nat} {f : Frame} :
    overlong maxWords f = true ↔ ∃ m, maxWords = some m ∧ m < f.length := by
  cases maxWords <;> simp [overlong]

/-- R76, R84: the operand words give a command exactly when their number is the one the frame length leaves. -/
theorem parseOperands_eq_none_iff (op : Opcode) (h : Word) (rest : List Word) :
    parseOperands op h rest = none ↔ frameLength (formatOf op) (h :: rest)[1]? ≠ some (h :: rest).length := by
  cases op with
  | hash =>
    match rest with
    | [] => simp [parseOperands, formatOf, frameLength]
    | [l] => simp [parseOperands, formatOf, frameLength]; omega
    | l :: m :: ws => simp [parseOperands, formatOf, frameLength]; omega
  | seed k =>
    match rest with
    | [] => simp [parseOperands, formatOf, frameLength]
    | l :: ws => simp [parseOperands, formatOf, frameLength]; omega
  | next k => cases rest <;> simp [parseOperands, formatOf, frameLength]
  | rdbl k => cases rest <;> simp [parseOperands, formatOf, frameLength]
  | rrange k =>
    match rest with
    | [] | [_] | [_, _] | [_, _, _] | [_, _, _, _] | _ :: _ :: _ :: _ :: _ :: _ =>
      simp [parseOperands, formatOf, frameLength]
  | rindex k =>
    match rest with
    | [] | [_] | [_, _] | _ :: _ :: _ :: _ => simp [parseOperands, formatOf, frameLength]

section
variable {m : Option Nat} {h : Word} {rest : List Word} {op : Opcode}

/-- Past checks 2 and 3 the decoder looks at the length bound and then at the operand words. -/
theorem decode_cons_of_clear (hopc : opcodeOf (opcField h) = some op) (hclear : h &&& reservedMask op = 0) :
    decode m (h :: rest) =
      if overlong m (h :: rest) then .error .frameError else (parseOperands op h rest).elim (.error .frameError) .ok := by
  simp only [decode, hopc, if_neg (not_not_intro hclear)]
  cases parseOperands op h rest <;> rfl

theorem decode_eq_frameError_iff (hopc : opcodeOf (opcField h) = some op) (hclear : h &&& reservedMask op = 0) :
    decode m (h :: rest) = .error .frameError ↔
      frameLength (formatOf op) (h :: rest)[1]? ≠ some (h :: rest).length ∨ overlong m (h :: rest) = true := by
  rw [decode_cons_of_clear hopc hclear, ← parseOperands_eq_none_iff]
  cases overlong m (h :: rest) <;> cases parseOperands op h rest <;> simp

/-- A frame that passes checks 2 to 4 decodes to the command of its operand words. -/
theorem exists_decode_of_length (hopc : opcodeOf (opcField h) = some op) (hclear : h &&& reservedMask op = 0)
    (hlen : frameLength (formatOf op) (h :: rest)[1]? = some (h :: rest).length)
    (hshort : overlong m (h :: rest) = false) :
    ∃ i, parseOperands op h rest = some i ∧ decode m (h :: rest) = .ok i := by
  obtain ⟨i, hi⟩ := Option.ne_none_iff_exists'.mp fun hnone => (parseOperands_eq_none_iff op h rest).mp hnone hlen
  exact ⟨i, hi, by simp [decode_cons_of_clear hopc hclear, hshort, hi]⟩

end

end Sys2Proof

namespace Sys2Proof.Machine

/-- Settles O7: the decoder's fourth check is R84's length and the bound, and a frame that fails a check of the decoder
leaves its status word alone. -/
theorem wrongLengthIsFrameError : Obligations.WrongLengthIsFrameError := by
  intro s
  refine ⟨runFrame_of_decode_error (st := .frameError) rfl, fun h rest op hopc hclear => ⟨?_, runFrame_of_decode_error⟩⟩
  rw [decode_eq_frameError_iff hopc hclear, overlong_iff]

end Sys2Proof.Machine
end

section
/-!
SUPPORT. The checks of spec/60_exceptions.md R251 as lists: what it means that the first failing check of a list decides
a command's outcome, and what follows from it for the outcome.
-/

namespace Sys2Proof.Machine

/-! ## Lists of checks -/

/-- The outcome of a command that passes all its checks: an OK response or the draw loop. -/
def Proceeds (r : Result) : Prop :=
  ∃ t, r = .next t ∧ ((∃ results, t.phase = .done (0x00 :: results)) ∨ ∃ d, t.phase = .drawing d)

/-- The first failing check of the list decides the outcome `r` of a command on `s`: the command raises its status, or
proceeds when none fails. A check is the condition under which it fails, and its status. -/
def Checked (s : State) (r : Result) : List (Bool × Status) → Prop
  | [] => Proceeds r
  | c :: cs => if c.1 then r = s.raise c.2 else Checked s r cs

section
variable {s : State} {r : Result} {b : Bool} {st : Status} {cs : List (Bool × Status)}

@[simp] theorem checked_nil : Checked s r [] ↔ Proceeds r := Iff.rfl

theorem checked_cons : Checked s r ((b, st) :: cs) ↔ if b then r = s.raise st else Checked s r cs := Iff.rfl

@[simp] theorem checked_cons_true : Checked s r ((true, st) :: cs) ↔ r = s.raise st := by simp [checked_cons]

@[simp] theorem checked_cons_false : Checked s r ((false, st) :: cs) ↔ Checked s r cs := by simp [checked_cons]

theorem Checked.fail (h : Checked s r ((b, st) :: cs)) (hb : b = true) : r = s.raise st := by
  subst hb
  exact checked_cons_true.mp h

theorem Checked.pass (h : Checked s r ((b, st) :: cs)) (hb : b = false) : Checked s r cs := by
  subst hb
  exact checked_cons_false.mp h

/-- `Checked` says what `firstError` computes: `find?` takes the first failing check. -/
theorem checked_iff_find? : Checked s r cs ↔
    (∀ st, (cs.find? (·.1)).map (·.2) = some st → r = s.raise st) ∧
      ((cs.find? (·.1)).map (·.2) = none → Proceeds r) := by
  induction cs with
  | nil => simp
  | cons c cs ih =>
    obtain ⟨_ | _, st⟩ := c
    · simpa using ih
    · simp

theorem Proceeds.ne_raise (hproceeds : Proceeds r) (hst : st ≠ .ok) : r ≠ s.raise st := by
  rintro rfl
  obtain ⟨t, ht, ⟨results, hphase⟩ | ⟨d, hphase⟩⟩ := hproceeds
  · cases ht
    obtain ⟨hword, -⟩ := List.cons.inj (Phase.done.inj hphase)
    exact hst (statusWord_injective (b := .ok) hword)
  · cases ht; cases hphase

theorem raise_injective {a b : Status} (h : s.raise a = s.raise b) : a = b :=
  statusWord_injective (List.cons.inj (Phase.done.inj (congrArg State.phase (Host.Outcome.next.inj h)))).1

/-- An error status that no check of the list reports is not the outcome. -/
theorem Checked.ne_raise (h : Checked s r cs) (hst : st ≠ .ok) (hcs : ∀ c ∈ cs, c.2 ≠ st) : r ≠ s.raise st := by
  induction cs with
  | nil => exact Proceeds.ne_raise h hst
  | cons c cs ih =>
    obtain ⟨hc, hcs⟩ := List.forall_mem_cons.mp hcs
    rw [Checked] at h
    split at h
    · exact fun hr => hc (raise_injective (h.symm.trans hr))
    · exact ih h hcs

/-- A status that only the first check reports is the outcome exactly when that check fails. -/
theorem Checked.eq_raise_iff (h : Checked s r ((b, st) :: cs)) (hst : st ≠ .ok) (hcs : ∀ c ∈ cs, c.2 ≠ st) :
    r = s.raise st ↔ b = true := by
  cases b with
  | true => simpa using h
  | false => simpa using (checked_cons_false.mp h).ne_raise hst hcs

end

end Sys2Proof.Machine
end

section
/-!
SUPPORT. The checks 5 to 10 of spec/60_exceptions.md R251 that each class of command makes, in order, on the decoded
command.
-/

namespace Sys2Proof.Machine

/-! ## The commands of each class, named by kind -/

@[simp] theorem exec_seedInstr (inst : BitVec 8) (ws : List Word) (k : Kind) (s : State) :
    exec (seedInstr inst ws k) s = seedCommand k inst ws s := by cases k <;> rfl
@[simp] theorem exec_nextInstr (inst : BitVec 8) (k : Kind) (s : State) :
    exec (nextInstr inst k) s = nextCommand k inst s := by cases k <;> rfl
@[simp] theorem exec_rdblInstr (inst : BitVec 8) (k : Kind) (s : State) :
    exec (rdblInstr inst k) s = rdblCommand k inst s := by cases k <;> rfl
@[simp] theorem exec_rrangeInstr (inst : BitVec 8) (lower upper : BitVec 64) (k : Kind) (s : State) :
    exec (rrangeInstr inst lower upper k) s = rrangeCommand k inst lower upper s := by cases k <;> rfl
@[simp] theorem exec_rindexInstr (inst : BitVec 8) (count : BitVec 64) (k : Kind) (s : State) :
    exec (rindexInstr inst count k) s = rindexCommand k inst count s := by cases k <;> rfl

@[simp] theorem target_seedInstr (inst : BitVec 8) (ws : List Word) (k : Kind) :
    target (seedInstr inst ws k) = some (k, inst.toNat) := by cases k <;> rfl
@[simp] theorem target_nextInstr (inst : BitVec 8) (k : Kind) :
    target (nextInstr inst k) = some (k, inst.toNat) := by cases k <;> rfl
@[simp] theorem target_rdblInstr (inst : BitVec 8) (k : Kind) :
    target (rdblInstr inst k) = some (k, inst.toNat) := by cases k <;> rfl
@[simp] theorem target_rrangeInstr (inst : BitVec 8) (lower upper : BitVec 64) (k : Kind) :
    target (rrangeInstr inst lower upper k) = some (k, inst.toNat) := by cases k <;> rfl
@[simp] theorem target_rindexInstr (inst : BitVec 8) (count : BitVec 64) (k : Kind) :
    target (rindexInstr inst count k) = some (k, inst.toNat) := by cases k <;> rfl

/-- The sixteen commands are HASH and five classes for each kind (R72). -/
theorem instr_byClass {motive : Instr → Prop} (hash : ∀ rate m ws, motive (.hash rate m ws))
    (seed : ∀ inst ws k, motive (seedInstr inst ws k)) (next : ∀ inst k, motive (nextInstr inst k))
    (rdbl : ∀ inst k, motive (rdblInstr inst k))
    (rrange : ∀ inst lower upper k, motive (rrangeInstr inst lower upper k))
    (rindex : ∀ inst count k, motive (rindexInstr inst count k)) (i : Instr) : motive i := by
  cases i
  case hash => exact hash _ _ _
  case seedSc => exact seed _ _ .sc
  case seedTr => exact seed _ _ .tr
  case seedLf => exact seed _ _ .lf
  case nextSc => exact next _ .sc
  case nextTr => exact next _ .tr
  case nextLf => exact next _ .lf
  case rdblSc => exact rdbl _ .sc
  case rdblTr => exact rdbl _ .tr
  case rdblLf => exact rdbl _ .lf
  case rrangeSc => exact rrange _ _ _ .sc
  case rrangeTr => exact rrange _ _ _ .tr
  case rrangeLf => exact rrange _ _ _ .lf
  case rindexSc => exact rindex _ _ .sc
  case rindexTr => exact rindex _ _ .tr
  case rindexLf => exact rindex _ _ .lf

/-! ## The checks of each class (R251, checks 5 to 10) -/

theorem proceeds_respond (ws : List Word) (s : State) : Proceeds (s.respond ws) := ⟨_, rfl, .inl ⟨_, rfl⟩⟩

/-- A draw from a seeded unit proceeds when what follows it does. -/
theorem proceeds_draw {k : Kind} {i : Nat} {s : State} {f : Word → State → Result} (hseeded : s.isSeeded k i = true)
    (hf : ∀ w t, Proceeds (f w t)) : Proceeds (s.draw k i f) := by
  obtain ⟨w, t, hprod⟩ := isSeeded_produce hseeded
  rw [draw_of_produce hprod]
  exact hf w t

theorem proceeds_drawStep {d : DrawLoop} {s : State} (hseeded : s.isSeeded d.kind d.inst = true) :
    Proceeds (drawStep d s) := by
  refine proceeds_draw hseeded fun w t => ?_
  split
  · exact proceeds_respond _ t
  · exact ⟨_, rfl, .inr ⟨d, rfl⟩⟩

section
variable {k : Kind} {inst : BitVec 8} {s : State}

/-- A check made before the body. -/
theorem checked_ite {p : Prop} [Decidable p] {st : Status} {body : Result} {cs : List (Bool × Status)}
    (hbody : Checked s body cs) : Checked s (if p then s.raise st else body) ((decide p, st) :: cs) := by
  by_cases hp : p
  · simp only [hp, decide_true, checked_cons_true, if_true]
  · simpa only [hp, decide_false, checked_cons_false, if_false] using hbody

/-- Check 5 (R244). -/
theorem checked_requireUnit {body : Result} {cs : List (Bool × Status)} (hbody : Checked s body cs) :
    Checked s (requireUnit k inst s body) ((decide (s.num k ≤ inst.toNat), .badInstance) :: cs) :=
  checked_ite hbody

/-- Check 10 (R249). -/
theorem checked_requireSeeded {body : Result} (hbody : s.isSeeded k inst.toNat = true → Proceeds body) :
    Checked s (requireSeeded k inst s body) [(!s.isSeeded k inst.toNat, .notSeeded)] := by
  cases hseeded : s.isSeeded k inst.toNat with
  | true =>
    rw [requireSeeded_of hseeded]
    exact hbody hseeded
  | false => simp only [Bool.not_false, checked_cons_true, requireSeeded_of_not hseeded]

/-- Checks 8 to 10 (R247 to R249). -/
theorem checked_rangeCommand (lower upper : Int) :
    Checked s (rangeCommand k inst lower upper s)
      [(decide (upper < lower), .invalidRange), (decide (2 ^ 32 < upper - lower + 1), .rangeTooWide),
        (!s.isSeeded k inst.toNat, .notSeeded)] :=
  checked_ite (checked_ite (checked_requireSeeded fun hseeded => proceeds_drawStep hseeded))

/-- Check 6 (R245). -/
theorem checked_hash (rate : BitVec 5) (m : Word) (ws : List Word) (s : State) :
    Checked s (exec (.hash rate m ws) s)
      [(decide (rate.toNat = 0) || decide (25 < rate.toNat), .invalidRate)] := by
  show Checked s (if legalRate rate then _ else _) _
  have hrate : (decide (rate.toNat = 0) || decide (25 < rate.toNat)) = !legalRate rate := by
    rw [Bool.eq_iff_iff]
    simp [legalRate]
  rw [hrate]
  cases legalRate rate with
  | true => exact proceeds_respond _ s
  | false => rfl

variable (k inst s)

theorem checked_seed (ws : List Word) :
    Checked s (exec (seedInstr inst ws k) s) [(decide (s.num k ≤ inst.toNat), .badInstance)] := by
  rw [exec_seedInstr]
  exact checked_requireUnit (proceeds_respond [] _)

/-- The common body of NEXT and RDBL: one draw, and a response made from its word. -/
theorem checked_drawCommand (f : Word → List Word) :
    Checked s (requireUnit k inst s (requireSeeded k inst s (s.draw k inst.toNat fun w t => t.respond (f w))))
      [(decide (s.num k ≤ inst.toNat), .badInstance), (!s.isSeeded k inst.toNat, .notSeeded)] :=
  checked_requireUnit (checked_requireSeeded fun hseeded => proceeds_draw hseeded fun _ t => proceeds_respond _ t)

theorem checked_next :
    Checked s (exec (nextInstr inst k) s)
      [(decide (s.num k ≤ inst.toNat), .badInstance), (!s.isSeeded k inst.toNat, .notSeeded)] := by
  rw [exec_nextInstr]
  exact checked_drawCommand k inst s fun w => [w]

theorem checked_rdbl :
    Checked s (exec (rdblInstr inst k) s)
      [(decide (s.num k ≤ inst.toNat), .badInstance), (!s.isSeeded k inst.toNat, .notSeeded)] := by
  rw [exec_rdblInstr]
  exact checked_drawCommand k inst s doubleWords

theorem checked_rrange (lower upper : BitVec 64) :
    Checked s (exec (rrangeInstr inst lower upper k) s)
      [(decide (s.num k ≤ inst.toNat), .badInstance), (decide (upper.toInt < lower.toInt), .invalidRange),
        (decide (2 ^ 32 < upper.toInt - lower.toInt + 1), .rangeTooWide), (!s.isSeeded k inst.toNat, .notSeeded)] := by
  rw [exec_rrangeInstr]
  exact checked_requireUnit (checked_rangeCommand _ _)

theorem checked_rindex (count : BitVec 64) :
    Checked s (exec (rindexInstr inst count k) s)
      [(decide (s.num k ≤ inst.toNat), .badInstance), (decide (count.toInt < 0), .invalidCount),
        (decide (count.toInt - 1 < 0), .invalidRange), (decide (2 ^ 32 < count.toInt - 1 - 0 + 1), .rangeTooWide),
        (!s.isSeeded k inst.toNat, .notSeeded)] := by
  rw [exec_rindexInstr]
  exact checked_requireUnit (checked_ite (checked_rangeCommand _ _))

end

end Sys2Proof.Machine
end

section
/-!
SUPPORT. The statements about the single checks of spec/60_exceptions.md (R244 to R249), and that an error writes nothing
(R250).
-/

namespace Sys2Proof.Machine

/-- Settles O25: the rate is HASH's one check past the decoder. -/
theorem badRateIsInvalid : Obligations.BadRateIsInvalid := fun rate m ws s hbad =>
  (checked_hash rate m ws s).fail (by simpa using hbad)

/-- Settles O48: past the unit's check, each case passes the checks before its own and fails that one. -/
theorem argumentErrorsOfRangeCommands : Obligations.ArgumentErrorsOfRangeCommands := by
  intro k inst lower upper count s hlt
  have hunit : decide (s.num k ≤ inst.toNat) = false := decide_eq_false (Nat.not_le.mpr hlt)
  have hindex := (checked_rindex k inst s count).pass hunit
  have hrange := (checked_rrange k inst s lower upper).pass hunit
  refine ⟨fun hneg => ?negative, fun hzero => ?zero, fun hwide => ?wideIndex, fun hempty => ?empty, fun hwide => ?wide⟩
  case negative => exact hindex.fail (decide_eq_true hneg)
  case zero =>
    subst hzero
    exact (hindex.pass rfl).fail rfl
  case wideIndex =>
    exact ((hindex.pass (decide_eq_false (by omega))).pass (decide_eq_false (by omega))).fail
      (decide_eq_true (by omega))
  case empty => exact hrange.fail (decide_eq_true hempty)
  case wide => exact (hrange.pass (decide_eq_false (by omega))).fail (decide_eq_true hwide)

/-- Settles O49: the check of the seeded bit is the last of each list, and the ones before it pass. -/
theorem unseededUnitIsNotSeeded : Obligations.UnseededUnitIsNotSeeded := by
  intro k inst lower upper count s hlt hunseeded
  have hunit : decide (s.num k ≤ inst.toNat) = false := decide_eq_false (Nat.not_le.mpr hlt)
  have hbit : (!s.isSeeded k inst.toNat) = true := by rw [hunseeded]; rfl
  refine ⟨?next, ?rdbl, fun hle hsize => ?rrange, fun hpos hsize => ?rindex⟩
  case next => exact ((checked_next k inst s).pass hunit).fail hbit
  case rdbl => exact ((checked_rdbl k inst s).pass hunit).fail hbit
  case rrange =>
    have hargs := (checked_rrange k inst s lower upper).pass hunit
    exact ((hargs.pass (decide_eq_false (by omega))).pass (decide_eq_false (by omega))).fail hbit
  case rindex =>
    have hargs := ((checked_rindex k inst s count).pass hunit).pass (decide_eq_false (by omega))
    exact ((hargs.pass (decide_eq_false (by omega))).pass (decide_eq_false (by omega))).fail hbit

/-- R23: in a state that meets the invariant the banks have the configured sizes. -/
theorem inv_num {s : State} (hinv : s.Inv) (k : Kind) : s.num k = unitCount s.cfg k := by
  cases k
  · exact hinv.scCount
  · exact hinv.trCount
  · exact hinv.lfCount

/-- The first check of every generator command is that of its unit, and no later one reports BAD_INSTANCE. -/
theorem exists_checked_unit {i : Instr} {k : Kind} {n : Nat} (hi : target i = some (k, n)) (s : State) :
    ∃ cs, Checked s (exec i s) ((decide (s.num k ≤ n), .badInstance) :: cs) ∧ ∀ c ∈ cs, c.2 ≠ .badInstance := by
  cases i using instr_byClass
  case hash => cases hi
  all_goals
    simp only [target_seedInstr, target_nextInstr, target_rdblInstr, target_rrangeInstr, target_rindexInstr,
      Option.some.injEq, Prod.mk.injEq] at hi
    obtain ⟨rfl, rfl⟩ := hi
  case seed inst ws k => exact ⟨_, checked_seed k inst s ws, by simp⟩
  case next inst k => exact ⟨_, checked_next k inst s, by simp⟩
  case rdbl inst k => exact ⟨_, checked_rdbl k inst s, by simp⟩
  case rrange inst lower upper k => exact ⟨_, checked_rrange k inst s lower upper, by simp⟩
  case rindex inst count k => exact ⟨_, checked_rindex k inst s count, by simp⟩

/-- Settles O47: the unit's check alone reports BAD_INSTANCE, and the invariant makes its bound the configured number. -/
theorem badInstanceExactlyPastTheBank : Obligations.BadInstanceExactlyPastTheBank := by
  intro i k n s hinv hi
  obtain ⟨cs, hcs, hother⟩ := exists_checked_unit hi s
  rw [← inv_num hinv, ← decide_eq_true_iff (p := s.num k ≤ n)]
  exact hcs.eq_raise_iff (by decide) hother

/-- Settles O50: of the ways a command can answer, only `EndsInError` leaves a status other than OK. -/
theorem errorsWriteNothing : Obligations.ErrorsWriteNothing := by
  intro i s t c rest hexec hphase hc
  cases exec_next hexec with
  | error h =>
    obtain ⟨st, -, rfl⟩ := h
    cases hphase
    exact ⟨rfl, rfl⟩
  | hashed hi ws ht =>
    subst ht
    cases hphase
    exact absurd rfl hc
  | seeded k inst w hi hlt ht =>
    subst ht
    cases hphase
    exact absurd rfl hc
  | drew k n hi ho h =>
    obtain ⟨-, w, u, p, -, rfl, ⟨ws, rfl⟩ | ⟨d, rfl, -⟩⟩ := h
    · cases hphase
      exact absurd rfl hc
    · cases hphase

end Sys2Proof.Machine
end

section
/-!
SUPPORT. The ten checks of spec/60_exceptions.md R251 on the words of a frame: they are the decoder's checks (1 to 4)
followed by those of the decoded command (5 to 10).
-/

namespace Sys2Proof.Machine

theorem runFrame_of_decode_ok {f : Frame} {s : State} {i : Instr} (hdec : decode s.cfg.maxFrameWords f = .ok i) :
    runFrame f s = exec i s := by
  rw [runFrame, hdec]

theorem instField_toNat (h : Word) : (instField h).toNat = h.toNat / 2 ^ 16 % 256 := by
  rw [instField, BitVec.extractLsb'_toNat, Nat.shiftRight_eq_div_pow]

theorem rateField_toNat (h : Word) : (rateField h).toNat = h.toNat % 32 := by
  rw [rateField, BitVec.extractLsb'_toNat, Nat.shiftRight_zero]

/-- Checks 5 to 10 of the frame's words are the checks of the command the words give. -/
theorem checked_exec_of_parseOperands {s : State} {op : Opcode} {h : Word} {rest : List Word} {i : Instr}
    (hopc : opcodeOf (opcField h) = some op) (hparse : parseOperands op h rest = some i) :
    Checked s (exec i s) ((frameChecks s (h :: rest)).drop 4) := by
  have hhead : frameWord (h :: rest) 0 = h := rfl
  simp only [frameChecks, hhead, hopc, List.drop_succ_cons, List.drop_zero, ← instField_toNat, ← rateField_toNat,
    Option.any_some, Option.bind_some]
  -- The class is known in each branch: the checks it does not make compute to `false`, and `Checked` passes over them.
  unfold parseOperands at hparse
  split at hparse
  case h_1 l m ws =>
    split at hparse <;> cases hparse
    exact checked_hash (rateField h) m ws s
  case h_2 k l ws =>
    split at hparse <;> cases hparse
    exact checked_seed k (instField h) s ws
  case h_3 k =>
    cases hparse
    exact checked_next k (instField h) s
  case h_4 k =>
    cases hparse
    exact checked_rdbl k (instField h) s
  case h_5 k a b c d =>
    cases hparse
    exact checked_rrange k (instField h) s (s64 a b) (s64 c d)
  case h_6 k a b =>
    cases hparse
    exact checked_rindex k (instField h) s (s64 a b)
  case h_7 => cases hparse

/-- On an assigned OPC the first four checks of the list are those the decoder makes. -/
theorem frameChecks_cons_of_assigned {h : Word} {op : Opcode} (hopc : opcodeOf (opcField h) = some op) (s : State)
    (rest : List Word) :
    frameChecks s (h :: rest) =
      (false, .frameError) :: (false, .illegalOpcode) :: (decide (h &&& reservedMask op ≠ 0), .reservedField) ::
      (decide (frameLength (formatOf op) (h :: rest)[1]? ≠ some (h :: rest).length) ||
        overlong s.cfg.maxFrameWords (h :: rest), .frameError) :: (frameChecks s (h :: rest)).drop 4 := by
  have hhead : frameWord (h :: rest) 0 = h := rfl
  simp only [frameChecks, hhead, hopc, Option.any_some, Option.isNone_some, List.isEmpty_cons, List.drop_succ_cons,
    List.drop_zero]

theorem frameChecks_cons_of_unassigned {h : Word} (hopc : opcodeOf (opcField h) = none) (s : State) (rest : List Word) :
    frameChecks s (h :: rest) =
      (false, .frameError) :: (true, .illegalOpcode) :: (frameChecks s (h :: rest)).drop 2 := by
  have hhead : frameWord (h :: rest) 0 = h := rfl
  simp only [frameChecks, hhead, hopc, Option.isNone_none, List.isEmpty_cons, List.drop_succ_cons, List.drop_zero]

/-- Every frame's outcome is decided by the list of R251. -/
theorem checked_runFrame (s : State) (f : Frame) : Checked s (runFrame f s) (frameChecks s f) := by
  cases f with
  | nil => exact checked_cons_true.mpr (runFrame_of_decode_error (st := .frameError) rfl)
  | cons h rest =>
    cases hopc : opcodeOf (opcField h) with
    | none =>
      rw [frameChecks_cons_of_unassigned hopc, checked_cons_false, checked_cons_true]
      exact runFrame_of_decode_error (decode_cons_of_unassigned hopc)
    | some op =>
      rw [frameChecks_cons_of_assigned hopc, checked_cons_false, checked_cons_false, checked_cons, checked_cons]
      simp only [decide_eq_true_eq, Bool.or_eq_true]
      split_ifs with hreserved hlen
      · exact runFrame_of_decode_error (decode_cons_of_reserved hopc hreserved)
      · exact runFrame_of_decode_error ((decode_eq_frameError_iff hopc (not_not.mp hreserved)).mpr hlen)
      · obtain ⟨hlength, hshort⟩ := not_or.mp hlen
        obtain ⟨i, hparse, hdec⟩ := exists_decode_of_length hopc (not_not.mp hreserved) (not_not.mp hlength)
          (Bool.eq_false_iff.mpr hshort)
        rw [runFrame_of_decode_ok hdec]
        exact checked_exec_of_parseOperands hopc hparse

/-- Settles O46: `firstError` is the first failing check of the list that decides every frame's outcome. -/
theorem firstFailingCheckDecides : Obligations.FirstFailingCheckDecides := fun s f =>
  checked_iff_find?.mp (checked_runFrame s f)

end Sys2Proof.Machine
end

section
/-!
SUPPORT. The reset of the host (spec/70_reset_and_hazards.md R280, R281): the step it makes, and what the state after it
holds (spec/10_state.md R38).
-/

namespace Sys2Proof.Machine

/-! ## The step -/

/-- R281: the reset is the whole step, whatever the phase. -/
theorem step_of_reset {s : State} {c : Config} {rest : List HostEvent} (hscript : s.host.script = .reset c :: rest) :
    step s = (s.withScript rest).assertReset c := by
  simp only [step, hostMove, hscript]

theorem assertReset_of_legal {c : Config} (hlegal : c.legal = true) (s : State) :
    s.assertReset c = .next (State.resetWith c s.host) := if_pos hlegal

/-! ## The state after it -/

@[simp] theorem num_resetWith (k : Kind) (c : Config) (h : HostSide) :
    (State.resetWith c h).num k = unitCount c k := by
  cases k <;> exact List.length_replicate

/-- The bit of any one element of a bank filled with one unit is that unit's bit. -/
theorem any_getElem?_replicate {α : Type} (p : α → Bool) {a : α} (ha : p a = false) (n i : Nat) :
    ((List.replicate n a)[i]?).any p = false := by
  rw [List.getElem?_replicate]
  split
  · exact ha
  · rfl

@[simp] theorem isSeeded_resetWith (k : Kind) (i : Nat) (c : Config) (h : HostSide) :
    (State.resetWith c h).isSeeded k i = false := by
  cases k <;> exact any_getElem?_replicate _ rfl _ _

theorem eq_scgAtReset_of_getElem? {c : Config} {h : HostSide} {i : Nat} {g : Scg}
    (hg : (State.resetWith c h).scg[i]? = some g) : g = scgAtReset c :=
  List.eq_of_mem_replicate (List.mem_of_getElem? hg)

/-- R38: `core[0..3]` holds the constants of R170. -/
theorem scgAtReset_core (c : Config) (k : Fin 4) : (scgAtReset c).core[k.val] = c.scConst[k.val] := by
  simp [scgAtReset]

/-- Settles O14: the step is the reset, and the state it leaves is `State.resetWith`, which keeps the host's side. -/
theorem resetAbandonsTheCommand : Obligations.ResetAbandonsTheCommand := by
  intro s c rest hscript hlegal
  have hstep : step s = .next (State.resetWith c ⟨rest, s.host.received⟩) :=
    (step_of_reset hscript).trans (assertReset_of_legal hlegal _)
  refine ⟨_, hstep, rfl, rfl, rfl, rfl, (num_resetWith · c _), (isSeeded_resetWith · · c _), ?_⟩
  intro i g hg k
  rw [eq_scgAtReset_of_getElem? hg]
  exact scgAtReset_core c k

end Sys2Proof.Machine
end

section
/-!
SUPPORT. The opcode map and the header word (spec/30_encoding.md R71, R75, R82): the OPC of an opcode, the bits of a
header, and the header of a legal command put together again from its fields.
-/

namespace Sys2Proof

/-! ## The opcode map (R82) -/

@[simp] theorem opcodeOf_opcOf (op : Opcode) : opcodeOf (opcOf op) = some op := by
  cases op with
  | hash => rfl
  | seed k | next k | rdbl k | rrange k | rindex k => cases k <;> rfl

theorem opcodeOf_eq_some_iff {opc : BitVec 8} {op : Opcode} : opcodeOf opc = some op ↔ opc = opcOf op := by
  constructor
  · intro hopc
    unfold opcodeOf at hopc
    split at hopc <;> cases hopc <;> rfl
  · rintro rfl
    exact opcodeOf_opcOf op

/-! ## The bits of a header (R71) -/

theorem getLsbD_headerWord (opc inst : BitVec 8) (rate : BitVec 5) (b : Nat) :
    (headerWord opc inst rate).getLsbD b =
      if b < 5 then rate.getLsbD b else if b < 16 then false
      else if b < 24 then inst.getLsbD (b - 16) else opc.getLsbD (b - 24) := by
  simp only [headerWord, BitVec.getLsbD_append, BitVec.getLsbD_zero]
  grind

@[simp] theorem opcField_headerWord (opc inst : BitVec 8) (rate : BitVec 5) :
    opcField (headerWord opc inst rate) = opc := by
  refine BitVec.eq_of_getLsbD_eq fun b hb => ?_
  rw [opcField, BitVec.getLsbD_extractLsb', getLsbD_headerWord]
  simp [hb, show ¬ 24 + b < 5 by omega, show ¬ 24 + b < 16 by omega]

@[simp] theorem instField_headerWord (opc inst : BitVec 8) (rate : BitVec 5) :
    instField (headerWord opc inst rate) = inst := by
  refine BitVec.eq_of_getLsbD_eq fun b hb => ?_
  rw [instField, BitVec.getLsbD_extractLsb', getLsbD_headerWord]
  simp [hb, show ¬ 16 + b < 5 by omega, show 16 + b < 24 by omega]

@[simp] theorem rateField_headerWord (opc inst : BitVec 8) (rate : BitVec 5) :
    rateField (headerWord opc inst rate) = rate := by
  refine BitVec.eq_of_getLsbD_eq fun b hb => ?_
  rw [rateField, BitVec.getLsbD_extractLsb', getLsbD_headerWord]
  simp [hb]

/-! ## Headers without a reserved bit (R75) -/

theorem reserved_clear_iff {h : Word} {op : Opcode} : h &&& reservedMask op = 0 ↔
    ∀ b, (5 ≤ b ∧ b ≤ 15) ∨ (op = .hash ∧ 16 ≤ b ∧ b ≤ 23) ∨ (op ≠ .hash ∧ b ≤ 4) → h.getLsbD b = false := by
  rw [← not_iff_not, ← ne_eq, and_ne_zero_iff_exists_getLsbD]
  simp only [getLsbD_reservedMask]
  push Not
  simp only [Bool.not_eq_false, and_comm]

/-- The encoder's headers have no reserved bit: HASH has no INST, the other opcodes no RATE. -/
theorem headerWord_clear {op : Opcode} (opc : BitVec 8) {inst : BitVec 8} {rate : BitVec 5}
    (hinst : op = .hash → inst = 0) (hrate : op ≠ .hash → rate = 0) :
    headerWord opc inst rate &&& reservedMask op = 0 := by
  rw [reserved_clear_iff]
  rintro b (⟨hlo, hhi⟩ | ⟨hop, hlo, hhi⟩ | ⟨hop, hhi⟩) <;> rw [getLsbD_headerWord]
  · rw [if_neg (by omega), if_pos (by omega)]
  · rw [if_neg (by omega), if_neg (by omega), if_pos (by omega), hinst hop]
    exact BitVec.getLsbD_zero
  · rw [if_pos (by omega), hrate hop]
    exact BitVec.getLsbD_zero

/-- R71: a header with bits 15:5 clear is its OPC, INST and RATE put together. -/
theorem headerWord_fields {h : Word} (hmid : ∀ b, 5 ≤ b → b < 16 → h.getLsbD b = false) :
    headerWord (opcField h) (instField h) (rateField h) = h := by
  refine BitVec.eq_of_getLsbD_eq fun b hb => ?_
  rw [getLsbD_headerWord, opcField, instField, rateField]
  simp only [BitVec.getLsbD_extractLsb']
  split_ifs with hrate hzero hinst
  · simp [hrate]
  · exact (hmid b (by omega) hzero).symm
  · simp [show b - 16 < 8 by omega, show 16 + (b - 16) = b by omega]
  · simp [show b - 24 < 8 by omega, show 24 + (b - 24) = b by omega]

section
variable {h : Word} {op : Opcode}

theorem headerWord_fields_of_clear (hclear : h &&& reservedMask op = 0) :
    headerWord (opcField h) (instField h) (rateField h) = h :=
  headerWord_fields fun b hlo hhi => reserved_clear_iff.mp hclear b (.inl ⟨hlo, by omega⟩)

theorem instField_of_clear_hash (hclear : h &&& reservedMask .hash = 0) : instField h = 0 := by
  refine BitVec.eq_of_getLsbD_eq fun b hb => ?_
  rw [instField, BitVec.getLsbD_extractLsb', reserved_clear_iff.mp hclear _ (.inr (.inl ⟨rfl, by omega, by omega⟩))]
  simp

theorem rateField_of_clear (hop : op ≠ .hash) (hclear : h &&& reservedMask op = 0) : rateField h = 0 := by
  refine BitVec.eq_of_getLsbD_eq fun b hb => ?_
  rw [rateField, BitVec.getLsbD_extractLsb', reserved_clear_iff.mp hclear _ (.inr (.inr ⟨hop, by omega⟩))]
  simp

/-- R82: the header of a legal HASH. -/
theorem headerWord_hash (hopc : opcodeOf (opcField h) = some .hash) (hclear : h &&& reservedMask .hash = 0) :
    headerWord (opcOf .hash) 0 (rateField h) = h := by
  rw [← opcodeOf_eq_some_iff.mp hopc, ← instField_of_clear_hash hclear, headerWord_fields_of_clear hclear]

/-- R82: the header of a legal generator command. -/
theorem headerWord_generator (hopc : opcodeOf (opcField h) = some op) (hclear : h &&& reservedMask op = 0)
    (hop : op ≠ .hash) : headerWord (opcOf op) (instField h) 0 = h := by
  rw [← opcodeOf_eq_some_iff.mp hopc, ← rateField_of_clear hop hclear, headerWord_fields_of_clear hclear]

end

/-! ## The masks of R82 -/

/-- The match value of a row is the header of its OPC with both other fields zero. -/
theorem ofNat_opc_shifted (opc : BitVec 8) : BitVec.ofNat 32 (opc.toNat * 2 ^ 24) = headerWord opc 0 0 := by
  revert opc; decide

theorem and_opcMask (h : Word) : h &&& 0xFF000000#32 = headerWord (opcField h) 0 0 := by
  have hmask : ∀ b < 32, (0xFF000000#32).getLsbD b = decide (24 ≤ b) := by decide
  refine BitVec.eq_of_getLsbD_eq fun b hb => ?_
  rw [BitVec.getLsbD_and, hmask b hb, getLsbD_headerWord, opcField, BitVec.getLsbD_extractLsb']
  by_cases hlo : 24 ≤ b
  · simp [hlo, show ¬ b < 5 by omega, show ¬ b < 16 by omega, show ¬ b < 24 by omega, show b - 24 < 8 by omega]
  · simp [hlo, show b < 24 by omega]

/-- The mask of a row is OPC and the reserved bits. -/
theorem and_rowMask (h : Word) (op : Opcode) :
    h &&& (if op = .hash then 0xFFFFFFE0#32 else 0xFF00FFFF#32) =
      headerWord (opcField h) 0 0 ||| h &&& reservedMask op := by
  rw [← and_opcMask, ← BitVec.and_or_distrib_left]
  split
  next hop => subst hop; rfl
  next hop => rw [reservedMask_of_ne_hash hop]; rfl

/-- OPC and the reserved bits are disjoint, so each is read off their union. -/
theorem opc_or_reserved_eq_iff {h : Word} {op : Opcode} {opc : BitVec 8} :
    headerWord (opcField h) 0 0 ||| h &&& reservedMask op = headerWord opc 0 0 ↔
      opcField h = opc ∧ h &&& reservedMask op = 0 := by
  have hdisjoint (opc : BitVec 8) : headerWord opc 0#8 0#5 &&& reservedMask op = 0#32 :=
    headerWord_clear opc (fun _ => rfl) fun _ => rfl
  constructor
  · intro heq
    have hclear : h &&& reservedMask op = 0 := by
      simpa [BitVec.and_or_distrib_right, BitVec.and_assoc, hdisjoint] using congrArg (· &&& reservedMask op) heq
    refine ⟨?_, hclear⟩
    simpa [hclear] using congrArg opcField heq
  · rintro ⟨rfl, hclear⟩
    rw [hclear]
    exact BitVec.or_zero

/-- Settles O4: under its row's mask a header keeps its OPC and the reserved bits. -/
theorem headerMasksOfTheOpcodeMap : Obligations.HeaderMasksOfTheOpcodeMap := by
  intro h op
  rw [opcodeOf_eq_some_iff, ofNat_opc_shifted]
  exact opc_or_reserved_eq_iff.symm.trans (by rw [← and_rowMask]; rfl)

end Sys2Proof
end

section
/-!
SUPPORT. The codec (spec/30_encoding.md): the frame of each class of command, and that decoding and encoding are
inverse.
-/

namespace Sys2Proof

/-! ## Operand words (R53, R76, R79) -/

theorem s64_words64 (d : BitVec 64) : s64 (d.extractLsb' 0 32) (d.extractLsb' 32 32) = d := by
  refine BitVec.eq_of_getLsbD_eq fun b hb => ?_
  rw [s64, BitVec.getLsbD_append]
  by_cases hlo : b < 32
  · simp [hlo]
  · simp [hlo, show b - 32 < 32 by omega, show 32 + (b - 32) = b by omega]

theorem words64_s64 (lo hi : Word) : words64 (s64 lo hi) = [lo, hi] := by
  have hlo : (s64 lo hi).extractLsb' 0 32 = lo := BitVec.extractLsb'_append_eq_right
  have hhi : (s64 lo hi).extractLsb' 32 32 = hi := BitVec.extractLsb'_append_eq_left
  rw [words64, hlo, hhi]

theorem toNat_countWord {ws : List Word} (hfits : countFits ws = true) : u32 (countWord ws) = ws.length :=
  Nat.mod_eq_of_lt (of_decide_eq_true hfits)

theorem countFits_of_length {ws : List Word} {l : Word} (hlen : ws.length = u32 l) : countFits ws = true :=
  decide_eq_true (hlen ▸ l.isLt)

theorem countWord_of_length {ws : List Word} {l : Word} (hlen : ws.length = u32 l) : countWord ws = l := by
  rw [countWord, hlen, BitVec.ofNat_toNat, BitVec.setWidth_eq]

/-! ## The frame of each class -/

theorem encode_hash (rate : BitVec 5) (m : Word) (ws : List Word) :
    encode (.hash rate m ws) = headerWord (opcOf .hash) 0 rate :: countWord ws :: m :: ws := rfl
theorem encode_seedInstr (inst : BitVec 8) (ws : List Word) (k : Kind) :
    encode (seedInstr inst ws k) = headerWord (opcOf (.seed k)) inst 0 :: countWord ws :: ws := by cases k <;> rfl
theorem encode_nextInstr (inst : BitVec 8) (k : Kind) :
    encode (nextInstr inst k) = [headerWord (opcOf (.next k)) inst 0] := by cases k <;> rfl
theorem encode_rdblInstr (inst : BitVec 8) (k : Kind) :
    encode (rdblInstr inst k) = [headerWord (opcOf (.rdbl k)) inst 0] := by cases k <;> rfl
theorem encode_rrangeInstr (inst : BitVec 8) (lower upper : BitVec 64) (k : Kind) :
    encode (rrangeInstr inst lower upper k) =
      headerWord (opcOf (.rrange k)) inst 0 :: (words64 lower ++ words64 upper) := by cases k <;> rfl
theorem encode_rindexInstr (inst : BitVec 8) (count : BitVec 64) (k : Kind) :
    encode (rindexInstr inst count k) = headerWord (opcOf (.rindex k)) inst 0 :: words64 count := by cases k <;> rfl

theorem wellFormed_seedInstr (inst : BitVec 8) (ws : List Word) (k : Kind) :
    (seedInstr inst ws k).wellFormed = countFits ws := by cases k <;> rfl
theorem wellFormed_nextInstr (inst : BitVec 8) (k : Kind) : (nextInstr inst k).wellFormed = true := by cases k <;> rfl
theorem wellFormed_rdblInstr (inst : BitVec 8) (k : Kind) : (rdblInstr inst k).wellFormed = true := by cases k <;> rfl
theorem wellFormed_rrangeInstr (inst : BitVec 8) (lower upper : BitVec 64) (k : Kind) :
    (rrangeInstr inst lower upper k).wellFormed = true := by cases k <;> rfl
theorem wellFormed_rindexInstr (inst : BitVec 8) (count : BitVec 64) (k : Kind) :
    (rindexInstr inst count k).wellFormed = true := by cases k <;> rfl

/-! ## Decoding an encoded command -/

section
variable {m : Option Nat} {op : Opcode} {inst : BitVec 8} {rate : BitVec 5} {rest : List Word} {i : Instr}

/-- A frame with an encoder's header decodes to what its operand words give. -/
theorem decode_headerWord (hinst : op = .hash → inst = 0) (hrate : op ≠ .hash → rate = 0)
    (hshort : overlong m (headerWord (opcOf op) inst rate :: rest) = false)
    (hparse : parseOperands op (headerWord (opcOf op) inst rate) rest = some i) :
    decode m (headerWord (opcOf op) inst rate :: rest) = .ok i := by
  have hopc : opcodeOf (opcField (headerWord (opcOf op) inst rate)) = some op := by simp
  rw [decode_cons_of_clear hopc (headerWord_clear _ hinst hrate), hshort, hparse]
  rfl

theorem decode_generator (hop : op ≠ .hash) (hshort : overlong m (headerWord (opcOf op) inst 0 :: rest) = false)
    (hparse : parseOperands op (headerWord (opcOf op) inst 0) rest = some i) :
    decode m (headerWord (opcOf op) inst 0 :: rest) = .ok i :=
  decode_headerWord (fun h => absurd h hop) (fun _ => rfl) hshort hparse

end

end Sys2Proof

namespace Sys2Proof.Machine

/-- Settles O1: in each class the header is legal and the operand words give the operands back. -/
theorem encodedCommandDecodes : Obligations.EncodedCommandDecodes := by
  intro m i hwf hshort
  cases i using instr_byClass
  case hash rate n ws =>
    rw [encode_hash] at hshort ⊢
    refine decode_headerWord (fun _ => rfl) (absurd rfl) hshort ?_
    rw [parseOperands, if_pos (toNat_countWord hwf).symm, rateField_headerWord]
  case seed inst ws k =>
    rw [wellFormed_seedInstr] at hwf
    rw [encode_seedInstr] at hshort ⊢
    refine decode_generator nofun hshort ?_
    rw [parseOperands, if_pos (toNat_countWord hwf).symm, instField_headerWord]
  case next inst k =>
    rw [encode_nextInstr] at hshort ⊢
    refine decode_generator nofun hshort ?_
    rw [parseOperands, instField_headerWord]
  case rdbl inst k =>
    rw [encode_rdblInstr] at hshort ⊢
    refine decode_generator nofun hshort ?_
    rw [parseOperands, instField_headerWord]
  case rrange inst lower upper k =>
    rw [encode_rrangeInstr] at hshort ⊢
    refine decode_generator nofun hshort ?_
    simp only [words64, List.cons_append, List.nil_append, parseOperands, instField_headerWord, s64_words64]
  case rindex inst count k =>
    rw [encode_rindexInstr] at hshort ⊢
    refine decode_generator nofun hshort ?_
    simp only [words64, parseOperands, instField_headerWord, s64_words64]

/-! ## Encoding a decoded frame -/

/-- A legal header and operand words that give a command are that command's frame. -/
theorem encode_of_parseOperands {op : Opcode} {h : Word} {rest : List Word} {i : Instr}
    (hopc : opcodeOf (opcField h) = some op) (hclear : h &&& reservedMask op = 0)
    (hparse : parseOperands op h rest = some i) : i.wellFormed = true ∧ encode i = h :: rest := by
  unfold parseOperands at hparse
  split at hparse
  case h_1 l m ws =>
    split at hparse
    next hlen =>
      cases hparse
      refine ⟨countFits_of_length hlen, ?_⟩
      rw [encode_hash, headerWord_hash hopc hclear, countWord_of_length hlen]
    next => cases hparse
  case h_2 k l ws =>
    split at hparse
    next hlen =>
      cases hparse
      rw [wellFormed_seedInstr, encode_seedInstr, headerWord_generator hopc hclear nofun, countWord_of_length hlen]
      exact ⟨countFits_of_length hlen, rfl⟩
    next => cases hparse
  case h_3 k =>
    cases hparse
    rw [encode_nextInstr, headerWord_generator hopc hclear nofun]
    exact ⟨wellFormed_nextInstr _ _, rfl⟩
  case h_4 k =>
    cases hparse
    rw [encode_rdblInstr, headerWord_generator hopc hclear nofun]
    exact ⟨wellFormed_rdblInstr _ _, rfl⟩
  case h_5 k a b c d =>
    cases hparse
    rw [encode_rrangeInstr, headerWord_generator hopc hclear nofun, words64_s64, words64_s64]
    exact ⟨wellFormed_rrangeInstr _ _ _ _, rfl⟩
  case h_6 k a b =>
    cases hparse
    rw [encode_rindexInstr, headerWord_generator hopc hclear nofun, words64_s64]
    exact ⟨wellFormed_rindexInstr _ _ _, rfl⟩
  case h_7 => cases hparse

/-- A frame that decodes has passed checks 1 to 4 of R251. -/
theorem decode_ok {m : Option Nat} {f : Frame} {i : Instr} (hdec : decode m f = .ok i) :
    ∃ h rest op, f = h :: rest ∧ opcodeOf (opcField h) = some op ∧ h &&& reservedMask op = 0 ∧
      overlong m f = false ∧ parseOperands op h rest = some i := by
  unfold decode at hdec
  split at hdec
  · cases hdec
  next h rest =>
    split at hdec
    · cases hdec
    next op hopc =>
      split_ifs at hdec with hreserved hlong
      split at hdec
      · cases hdec
      next hparse =>
        cases hdec
        exact ⟨h, rest, op, rfl, hopc, not_not.mp hreserved, Bool.eq_false_iff.mpr hlong, hparse⟩

/-- Settles O2: the checks of the decoder leave no bit of the frame that the command does not give back. -/
theorem decodedFrameIsItsEncoding : Obligations.DecodedFrameIsItsEncoding := by
  intro m f i hdec
  obtain ⟨h, rest, op, rfl, hopc, hclear, hshort, hparse⟩ := decode_ok hdec
  obtain ⟨hwf, hencode⟩ := encode_of_parseOperands hopc hclear hparse
  exact ⟨hwf, hencode, hshort⟩

/-- Settles O8: the frames are written out by `encode`, and R71's round trip decodes them. -/
theorem pseudoCommandsExpand : Obligations.PseudoCommandsExpand := by
  intro k inst v
  have hseed : (seed1 k inst v).operandWords = [1, v] := by cases k <;> rfl
  have hbyte : (rbyte k inst).operandWords = [0, 0, 255, 0] := by cases k <;> rfl
  refine ⟨hseed, encodedCommandDecodes none _ ?_ rfl, hbyte, encodedCommandDecodes none _ ?_ rfl⟩
  · exact wellFormed_seedInstr inst [v] k
  · exact wellFormed_rrangeInstr inst 0 255 k

/-- Settles O3: each frame is the encoding of its command. -/
theorem sampleFramesDecode : Obligations.SampleFramesDecode :=
  ⟨encodedCommandDecodes none (.hash 9 1 [0xFCFDECC1]) rfl rfl, encodedCommandDecodes none (.seedTr 5 []) rfl rfl,
    encodedCommandDecodes none (.nextSc 7) rfl rfl, encodedCommandDecodes none (.rdblLf 255) rfl rfl,
    encodedCommandDecodes none (.rrangeLf 0 0xFFFFFFFF80000000 0x000000007FFFFFFF) rfl rfl,
    encodedCommandDecodes none (.rindexTr 0 10) rfl rfl⟩

end Sys2Proof.Machine
end

section
/-!
SUPPORT. The frame of a production, of a seeding and of every command (spec/10_state.md R22, R23, R37): which units, and
what inside an SCG unit, an operation leaves as it was.
-/

namespace Sys2Proof.Machine

/-! ## Units outside the named one -/

section
variable {x : Option (Kind × Nat)} {s t u : State}

theorem sameOutside_of_banks (hscg : t.scg = s.scg) (htrg : t.trg = s.trg) (hlfg : t.lfg = s.lfg) :
    sameOutside x s t := by
  simp [sameOutside, hscg, htrg, hlfg]

theorem sameOutside_trans (hst : sameOutside x s t) (htu : sameOutside x t u) : sameOutside x s u := by
  obtain ⟨⟨hscLen, hsc⟩, ⟨htrLen, htr⟩, hlfLen, hlf⟩ := hst
  obtain ⟨⟨hscLen', hsc'⟩, ⟨htrLen', htr'⟩, hlfLen', hlf'⟩ := htu
  exact ⟨⟨hscLen'.trans hscLen, fun j hj => (hsc' j hj).trans (hsc j hj)⟩,
    ⟨htrLen'.trans htrLen, fun j hj => (htr' j hj).trans (htr j hj)⟩,
    hlfLen'.trans hlfLen, fun j hj => (hlf' j hj).trans (hlf j hj)⟩

@[simp] theorem sameOutside_setPhase (p : Phase) : sameOutside x s (t.setPhase p) ↔ sameOutside x s t := Iff.rfl

theorem sameFixed_trans (hst : sameFixed s t) (htu : sameFixed t u) : sameFixed s u := by
  obtain ⟨hcfg, hport, hhost⟩ := hst
  obtain ⟨hcfg', hport', hhost'⟩ := htu
  exact ⟨hcfg'.trans hcfg, hport'.trans hport, hhost'.trans hhost⟩

@[simp] theorem sameFixed_setPhase (p : Phase) : sameFixed s (t.setPhase p) ↔ sameFixed s t := Iff.rfl

end

/-- Two banks that differ at most in element `i`. -/
def sameBut {α : Type} (i : Nat) (b b' : List α) : Prop := b'.length = b.length ∧ ∀ j, j ≠ i → b'[j]? = b[j]?

theorem sameBut_set {α : Type} (i : Nat) (b : List α) (g : α) : sameBut i b (b.set i g) :=
  ⟨List.length_set, fun _ hj => List.getElem?_set_ne hj.symm⟩

theorem sameBut_modify {α : Type} (i : Nat) (b : List α) (f : α → α) : sameBut i b (b.modify i f) :=
  ⟨List.length_modify f b i, fun _ hj => List.getElem?_modify_ne f b hj.symm⟩

theorem sameOutside_setScg {i : Nat} {s : State} {b : List Scg} (hb : sameBut i s.scg b) :
    sameOutside (some (.sc, i)) s (s.setScg b) :=
  ⟨⟨hb.1, fun j hj => hb.2 j fun h => hj (h ▸ rfl)⟩, ⟨rfl, fun _ _ => rfl⟩, rfl, fun _ _ => rfl⟩

theorem sameOutside_setTrg {i : Nat} {s : State} {b : List Trg} (hb : sameBut i s.trg b) :
    sameOutside (some (.tr, i)) s (s.setTrg b) :=
  ⟨⟨rfl, fun _ _ => rfl⟩, ⟨hb.1, fun j hj => hb.2 j fun h => hj (h ▸ rfl)⟩, rfl, fun _ _ => rfl⟩

theorem sameOutside_setLfg {i : Nat} {s : State} {b : List Lfg} (hb : sameBut i s.lfg b) :
    sameOutside (some (.lf, i)) s (s.setLfg b) :=
  ⟨⟨rfl, fun _ _ => rfl⟩, ⟨rfl, fun _ _ => rfl⟩, hb.1, fun j hj => hb.2 j fun h => hj (h ▸ rfl)⟩

/-- A unit outside the named one keeps its seeded bit. -/
theorem sameOutside_isSeeded {x : Option (Kind × Nat)} {s t : State} (hsame : sameOutside x s t) {k : Kind} {j : Nat}
    (hj : x ≠ some (k, j)) : t.isSeeded k j = s.isSeeded k j := by
  obtain ⟨⟨-, hsc⟩, ⟨-, htr⟩, -, hlf⟩ := hsame
  cases k with
  | sc => rw [State.isSeeded, State.isSeeded, hsc j hj]
  | tr => rw [State.isSeeded, State.isSeeded, htr j hj]
  | lf => rw [State.isSeeded, State.isSeeded, hlf j hj]

theorem sameOutside_num {x : Option (Kind × Nat)} {s t : State} (hsame : sameOutside x s t) (k : Kind) :
    t.num k = s.num k := by
  obtain ⟨⟨hsc, -⟩, ⟨htr, -⟩, hlf, -⟩ := hsame
  cases k
  · exact hsc
  · exact htr
  · exact hlf

/-! ## A production -/

section
variable {k : Kind} {i : Nat} {s t : State} {w : Word}

theorem produce_sc_eq_some_iff : s.produce .sc i = some (w, t) ↔ ∃ g, s.scg[i]? = some g ∧
    w = (produceSc s.cfg.scCounterTop (s.cfg.roundsOf i) g).1 ∧
    t = s.setScg (s.scg.set i (produceSc s.cfg.scCounterTop (s.cfg.roundsOf i) g).2) := by
  simp [produce_sc, eq_comm]

theorem produce_tr_eq_some_iff : s.produce .tr i = some (w, t) ↔ ∃ g, s.trg[i]? = some g ∧
    w = (produceTr g).1 ∧ t = s.setTrg (s.trg.set i (produceTr g).2) := by
  simp [produce_tr, eq_comm]

theorem produce_lf_eq_some_iff : s.produce .lf i = some (w, t) ↔ ∃ g, s.lfg[i]? = some g ∧
    w = (produceLf g).1 ∧ t = s.setLfg (s.lfg.set i (produceLf g).2) := by
  simp [produce_lf, eq_comm]

theorem produce_sameFixed (hprod : s.produce k i = some (w, t)) : sameFixed s t := by
  obtain ⟨hcfg, -, hport, hhost⟩ := produce_fixed hprod
  exact ⟨hcfg, hport, hhost⟩

theorem produce_sameOutside (hprod : s.produce k i = some (w, t)) : sameOutside (some (k, i)) s t := by
  cases k with
  | sc =>
    obtain ⟨g, -, -, rfl⟩ := produce_sc_eq_some_iff.mp hprod
    exact sameOutside_setScg (sameBut_set i _ _)
  | tr =>
    obtain ⟨g, -, -, rfl⟩ := produce_tr_eq_some_iff.mp hprod
    exact sameOutside_setTrg (sameBut_set i _ _)
  | lf =>
    obtain ⟨g, -, -, rfl⟩ := produce_lf_eq_some_iff.mp hprod
    exact sameOutside_setLfg (sameBut_set i _ _)

/-- R22: a production writes no seeded bit, not even that of its own unit. -/
theorem produce_isSeeded (hprod : s.produce k i = some (w, t)) (k' : Kind) (j : Nat) :
    t.isSeeded k' j = s.isSeeded k' j := by
  by_cases hown : some (k, i) = some (k', j)
  · cases hown
    cases k with
    | sc =>
      obtain ⟨g, hg, -, rfl⟩ := produce_sc_eq_some_iff.mp hprod
      simp [State.isSeeded, List.getElem?_set_self', hg, produceSc_seeded]
    | tr =>
      obtain ⟨g, hg, -, rfl⟩ := produce_tr_eq_some_iff.mp hprod
      simp [State.isSeeded, List.getElem?_set_self', hg]
    | lf =>
      obtain ⟨g, hg, -, rfl⟩ := produce_lf_eq_some_iff.mp hprod
      simp [State.isSeeded, List.getElem?_set_self', hg]
  · exact sameOutside_isSeeded (produce_sameOutside hprod) hown

end

/-! ## A seeding -/

theorem seedUnit_sameOutside (k : Kind) (i : Nat) (w : List Word) (s : State) :
    sameOutside (some (k, i)) s (s.seedUnit k i w) := by
  cases k with
  | sc => exact sameOutside_setScg (sameBut_modify i _ _)
  | tr => exact sameOutside_setTrg (sameBut_modify i _ _)
  | lf => exact sameOutside_setLfg (sameBut_modify i _ _)

theorem seedUnit_sameFixed (k : Kind) (i : Nat) (w : List Word) (s : State) : sameFixed s (s.seedUnit k i w) :=
  ⟨seedUnit_cfg k i w s, seedUnit_port k i w s, seedUnit_host k i w s⟩

/-- R131: a seeding sets the bit of its unit. -/
theorem seedUnit_isSeeded {k : Kind} {i : Nat} {s : State} (hlt : i < s.num k) (w : List Word) :
    (s.seedUnit k i w).isSeeded k i = true := by
  cases k with
  | sc =>
    simp [State.isSeeded, seedUnit_scg_getElem? (List.getElem?_eq_getElem hlt), initStateSc]
  | tr => simp [State.isSeeded, seedUnit_trg_getElem? hlt, initStateTr]
  | lf => simp [State.isSeeded, seedUnit_lfg_getElem? hlt, initStateLf]

/-! ## The statements about every command -/

/-- Settles O52: each way a command answers writes the phase and at most its own unit. -/
theorem commandFrame : Obligations.CommandFrame := by
  intro i s t hexec
  cases exec_next hexec with
  | error h =>
    obtain ⟨st, -, rfl⟩ := h
    exact ⟨⟨rfl, rfl, rfl⟩, sameOutside_of_banks rfl rfl rfl⟩
  | hashed hi ws ht =>
    subst ht
    exact ⟨⟨rfl, rfl, rfl⟩, sameOutside_of_banks rfl rfl rfl⟩
  | seeded k inst w hi hlt ht =>
    subst hi ht
    rw [target_seedInstr, sameFixed_setPhase, sameOutside_setPhase]
    exact ⟨seedUnit_sameFixed k _ w s, seedUnit_sameOutside k _ w s⟩
  | drew k n hi ho h =>
    obtain ⟨-, w, u, p, hprod, rfl, -⟩ := h
    rw [hi, sameFixed_setPhase, sameOutside_setPhase]
    exact ⟨produce_sameFixed hprod, produce_sameOutside hprod⟩

/-- Settles O53: a micro-step is one production and a new phase. -/
theorem drawFrame : Obligations.DrawFrame := by
  intro d s t hstep
  obtain ⟨w, u, hprod, hphase⟩ := drawStep_next hstep
  obtain ⟨p, rfl⟩ : ∃ p, t = u.setPhase p := by
    obtain ⟨-, rfl⟩ | ⟨-, rfl⟩ := hphase
    · exact ⟨_, rfl⟩
    · exact ⟨_, rfl⟩
  simp only [sameFixed_setPhase, sameOutside_setPhase, isSeeded_setPhase]
  exact ⟨produce_sameFixed hprod, produce_sameOutside hprod, produce_isSeeded hprod⟩

@[simp] theorem opcode_seedInstr (inst : BitVec 8) (ws : List Word) (k : Kind) :
    (seedInstr inst ws k).opcode = .seed k := by cases k <;> rfl

theorem eq_seedInstr_of_opcode {i : Instr} {k : Kind} (hop : i.opcode = .seed k) :
    ∃ inst ws, i = seedInstr inst ws k := by
  cases i <;> cases hop <;> exact ⟨_, _, rfl⟩

/-- Settles O54: a production keeps the bits, a seeding sets that of its unit, and nothing else writes a unit. -/
theorem onlySeedWritesSeeded : Obligations.OnlySeedWritesSeeded := by
  intro i s t hexec
  refine ⟨fun hno k j => ?keeps, fun k n hop hi hlt => ?sets⟩
  case keeps =>
    cases exec_next hexec with
    | error h =>
      obtain ⟨st, -, rfl⟩ := h
      exact isSeeded_setPhase k j _ s
    | hashed hi ws ht =>
      subst ht
      exact isSeeded_setPhase k j _ s
    | seeded k' inst w hi hlt ht =>
      subst hi
      exact absurd (opcode_seedInstr inst w k') (hno k')
    | drew k' n hi ho h =>
      obtain ⟨-, w, u, p, hprod, rfl, -⟩ := h
      exact (isSeeded_setPhase k j p u).trans (produce_isSeeded hprod k j)
  case sets =>
    obtain ⟨inst, ws, rfl⟩ := eq_seedInstr_of_opcode hop
    cases (target_seedInstr inst ws k).symm.trans hi
    rw [exec_seedInstr, seedCommand_of_lt hlt] at hexec
    cases hexec
    exact (isSeeded_setPhase k _ _ _).trans (seedUnit_isSeeded hlt ws)

/-! ## The frame inside an SCG unit (R24, R25) -/

theorem notMem_counterLimbs_of_lt_four (top : CounterTop) : ∀ k : Fin 16, k.val < 4 → k ∉ counterLimbs top := by
  cases top <;> decide

/-- While words remain, a production writes neither `core` nor `out`; else its core is the increment. -/
theorem produceSc_core (top : CounterTop) (rounds : Nat) (g : Scg) :
    (produceSc top rounds g).2.core = if g.remaining.val = 0 then scIncrement top g.core else g.core := by
  rw [produceSc]
  split <;> rfl

theorem produceSc_out_of_pos {g : Scg} (hpos : 0 < g.remaining.val) (top : CounterTop) (rounds : Nat) :
    (produceSc top rounds g).2.out = g.out := by
  rw [produceSc_of_pos top rounds hpos]
  rfl

/-- R175: a production writes no core word that is no counter limb. -/
theorem produceSc_core_getElem {top : CounterTop} {k : Fin 16} (hk : k ∉ counterLimbs top) (rounds : Nat) (g : Scg) :
    (produceSc top rounds g).2.core[k] = g.core[k] := by
  rw [produceSc_core]
  split
  · exact getElem_incrementLimbs_of_notMem hk g.core
  · rfl

/-- R171: a seeding keeps the constants. -/
theorem initStateSc_core_getElem {k : Fin 16} (hk : k.val < 4) (rounds : Nat) (g : Scg) (v : Vector Word 10) :
    (initStateSc rounds g v).core[k] = g.core[k] := by
  simp [initStateSc, scSeedCore, hk]

/-! ### Where an SCG unit comes from -/

section
variable {s t : State} {n : Nat} {h : Scg}

theorem produce_scg_cases {k : Kind} {i : Nat} {w : Word} (hprod : s.produce k i = some (w, t))
    (hh : t.scg[n]? = some h) : ∃ g, s.scg[n]? = some g ∧
      (h = g ∨ h = (produceSc s.cfg.scCounterTop (s.cfg.roundsOf n) g).2) := by
  by_cases hown : some (k, i) = some (.sc, n)
  · cases hown
    obtain ⟨g, hg, -, rfl⟩ := produce_sc_eq_some_iff.mp hprod
    exact ⟨g, hg, .inr (by simpa [List.getElem?_set_self', hg, eq_comm] using hh)⟩
  · obtain ⟨⟨-, hsame⟩, -⟩ := produce_sameOutside hprod
    exact ⟨h, (hsame n hown).symm.trans hh, .inl rfl⟩

theorem seedUnit_scg_cases {k : Kind} {i : Nat} {w : List Word} (hh : (s.seedUnit k i w).scg[n]? = some h) :
    ∃ g, s.scg[n]? = some g ∧ (h = g ∨ (k = .sc ∧ ∃ v, h = initStateSc (s.cfg.roundsOf n) g v)) := by
  by_cases hown : some (k, i) = some (.sc, n)
  · cases hown
    obtain ⟨g, hg, rfl⟩ : ∃ g, s.scg[n]? = some g ∧
        initStateSc (s.cfg.roundsOf n) g (seedVector w seedWordsSc) = h := by simpa [State.seedUnit] using hh
    exact ⟨g, hg, .inr ⟨rfl, _, rfl⟩⟩
  · obtain ⟨⟨-, hsame⟩, -⟩ := seedUnit_sameOutside k i w s
    exact ⟨h, (hsame n hown).symm.trans hh, .inl rfl⟩

/-- What a command did to an SCG unit: nothing, a production, or a seeding by SEED.SC. -/
theorem exec_scg_cases {i : Instr} (hexec : exec i s = .next t) (hh : t.scg[n]? = some h) :
    ∃ g, s.scg[n]? = some g ∧ (h = g ∨ h = (produceSc s.cfg.scCounterTop (s.cfg.roundsOf n) g).2 ∨
      (i.opcode = .seed .sc ∧ ∃ v, h = initStateSc (s.cfg.roundsOf n) g v)) := by
  cases exec_next hexec with
  | error hend =>
    obtain ⟨st, -, rfl⟩ := hend
    exact ⟨h, hh, .inl rfl⟩
  | hashed hi ws ht =>
    subst ht
    exact ⟨h, hh, .inl rfl⟩
  | seeded k inst w hi hlt ht =>
    subst hi ht
    obtain ⟨g, hg, rfl | ⟨rfl, hv⟩⟩ := seedUnit_scg_cases hh
    · exact ⟨h, hg, .inl rfl⟩
    · exact ⟨g, hg, .inr (.inr ⟨rfl, hv⟩)⟩
  | drew k m hi ho hdrew =>
    obtain ⟨-, w, u, p, hprod, rfl, -⟩ := hdrew
    obtain ⟨g, hg, hcase⟩ := produce_scg_cases hprod hh
    exact ⟨g, hg, hcase.imp_right .inl⟩

end

/-- Settles O55: neither a production nor a seeding writes `core[0..3]`, and a production writes counter limbs only. -/
theorem scgUnitFrame : Obligations.ScgUnitFrame := by
  intro i s t n g h hexec hg hh
  obtain ⟨g', hg', hcase⟩ := exec_scg_cases hexec hh
  cases hg.symm.trans hg'
  obtain rfl | rfl | ⟨hop, v, rfl⟩ := hcase
  · exact ⟨fun _ _ => rfl, fun _ _ _ _ => rfl, fun _ _ => ⟨rfl, rfl⟩⟩
  · refine ⟨fun k hk => ?_, fun _ htop k hk => ?_, fun _ hpos => ⟨?_, produceSc_out_of_pos hpos _ _⟩⟩
    · exact produceSc_core_getElem (notMem_counterLimbs_of_lt_four _ k hk) _ g
    · exact produceSc_core_getElem (htop ▸ notMem_counterLimbs_pos12 k hk) _ g
    · rw [produceSc_core, if_neg hpos.ne']
  · exact ⟨fun k hk => initStateSc_core_getElem hk _ g v, fun hno => absurd hop hno, fun hno => absurd hop hno⟩

end Sys2Proof.Machine
end

section
/-!
SUPPORT. Every command answers (spec/70_reset_and_hazards.md R283, R114), and the phase it leaves.
-/

namespace Sys2Proof.Machine

/-- A decided outcome is a next state: an error's or the one of a command that proceeds. -/
theorem Checked.answers {s : State} {r : Result} {cs : List (Bool × Status)} (h : Checked s r cs) :
    ∃ t, r = .next t := by
  induction cs with
  | nil =>
    obtain ⟨t, ht, -⟩ := h
    exact ⟨t, ht⟩
  | cons c cs ih =>
    rw [Checked] at h
    split at h
    · exact ⟨_, h⟩
    · exact ih h

theorem exec_answers (i : Instr) (s : State) : ∃ t, exec i s = .next t := by
  cases htarget : target i with
  | none =>
    cases i using instr_byClass
    case hash rate m ws => exact (checked_hash rate m ws s).answers
    all_goals simp at htarget
  | some x =>
    obtain ⟨cs, hcs, -⟩ := exists_checked_unit htarget s
    exact hcs.answers

theorem responseOk_error (st : Status) : responseOk [statusWord st] := ⟨st, [], rfl, fun _ => rfl⟩

theorem responseOk_ok (ws : List Word) : responseOk (statusWord .ok :: ws) := ⟨.ok, ws, rfl, fun h => absurd rfl h⟩

/-- The phase a command leaves: a well-formed response, or the draw loop of the unit it names with the data of R141. -/
theorem exec_phase {i : Instr} {s t : State} (hexec : exec i s = .next t) :
    (∃ r, t.phase = .done r ∧ responseOk r) ∨
      ∃ d, t.phase = .drawing d ∧ target i = some (d.kind, d.inst) ∧ drawOk t d := by
  cases exec_next hexec with
  | error h =>
    obtain ⟨st, -, rfl⟩ := h
    exact .inl ⟨_, rfl, responseOk_error st⟩
  | hashed hi ws ht =>
    subst ht
    exact .inl ⟨_, rfl, responseOk_ok ws⟩
  | seeded k inst w hi hlt ht =>
    subst ht
    exact .inl ⟨_, rfl, responseOk_error .ok⟩
  | drew k n hi ho h =>
    obtain ⟨hseeded, w, u, p, hprod, rfl, ⟨ws, rfl⟩ | ⟨d, rfl, rfl, rfl, hdata⟩⟩ := h
    · exact .inl ⟨_, rfl, responseOk_ok ws⟩
    · exact .inr ⟨d, rfl, hi, (isSeeded_setPhase _ _ _ u).trans ((produce_isSeeded hprod _ _).trans hseeded), hdata⟩

/-- Settles O51: a decided outcome is a next state, and `exec_phase` says which. -/
theorem everyCommandAnswers : Obligations.EveryCommandAnswers := by
  intro i s
  obtain ⟨t, hexec⟩ := exec_answers i s
  refine ⟨t, hexec, (exec_phase hexec).imp_right ?_⟩
  rintro ⟨d, hphase, htarget, -⟩
  exact ⟨d, hphase, htarget⟩

end Sys2Proof.Machine
end

section
/-!
SUPPORT. What one step can do (spec/70_reset_and_hazards.md R283, R290), said once: `step_next` names the ways in which
`step` answers a next state. The statements about the port, the responses and the parameters follow from its cases.
-/

namespace Sys2Proof.Machine

section
variable {s : State}

/-! ## Whose turn it is -/

theorem step_of_hostMove {r : Result} (hmove : hostMove s = some r) : step s = r := by
  rw [step, hmove]

theorem step_of_wait (hmove : hostMove s = none) : step s = sequencerStep s.hostWaits := by
  rw [step, hmove]

theorem sequencerStep_of_idle (hphase : s.phase = .idle) : sequencerStep s = .next s.acceptHeld := by
  rw [sequencerStep, hphase]

theorem sequencerStep_of_busy {f : Frame} (hphase : s.phase = .busy f) : sequencerStep s = runFrame f s := by
  rw [sequencerStep, hphase]

theorem sequencerStep_of_drawing {d : DrawLoop} (hphase : s.phase = .drawing d) : sequencerStep s = drawStep d s := by
  rw [sequencerStep, hphase]

theorem sequencerStep_of_done {r : Frame} (hphase : s.phase = .done r) : sequencerStep s = .next s := by
  rw [sequencerStep, hphase]

theorem acceptHeld_of_some {f : Frame} (hport : s.port = some f) :
    s.acceptHeld = (s.setPhase (.busy f)).setPort none := by
  rw [State.acceptHeld, hport]

theorem acceptHeld_of_none (hport : s.port = none) : s.acceptHeld = s := by
  rw [State.acceptHeld, hport]

theorem submitFrame_of_idle (hphase : s.phase = .idle) (f : Frame) : s.submitFrame f = s.setPhase (.busy f) := by
  rw [State.submitFrame, hphase]

theorem submitFrame_of_ne_idle (hphase : s.phase ≠ .idle) (f : Frame) : s.submitFrame f = s.setPort (some f) := by
  rw [State.submitFrame]
  split
  next h => exact absurd h hphase
  all_goals rfl

theorem hostMove_submit {f : Frame} {rest : List HostEvent} (hscript : s.host.script = .submit f :: rest) :
    hostMove s = if s.port.isNone then some (.next ((s.withScript rest).submitFrame f)) else none := by
  rw [hostMove, hscript]

theorem hostMove_read {r : Frame} {rest : List HostEvent} (hscript : s.host.script = .read :: rest)
    (hphase : s.phase = .done r) : hostMove s = some (.next ((s.withScript rest).deliver r)) := by
  rw [hostMove, hscript]
  simp only [hphase]

theorem hostWaits_of_not_wait (hscript : ∀ rest, s.host.script ≠ .wait :: rest) : s.hostWaits = s := by
  rw [State.hostWaits]
  split
  next rest h => exact absurd h (hscript rest)
  next => rfl

@[simp] theorem hostWaits_received (s : State) : s.hostWaits.host.received = s.host.received := by
  unfold State.hostWaits
  split <;> rfl

@[simp] theorem isSeeded_hostWaits (k : Kind) (i : Nat) (s : State) : s.hostWaits.isSeeded k i = s.isSeeded k i := by
  cases k <;> simp only [State.isSeeded, hostWaits_scg, hostWaits_trg, hostWaits_lfg]

end

/-! ## The ways a step answers -/

/-- What the host does in a step, if it acts. -/
inductive HostActs (s t : State) : Prop
  | submits (f : Frame) (rest : List HostEvent) (hscript : s.host.script = .submit f :: rest) (hport : s.port = none)
      (ht : t = (s.withScript rest).submitFrame f)
  | reads (r : Frame) (rest : List HostEvent) (hscript : s.host.script = .read :: rest) (hphase : s.phase = .done r)
      (ht : t = (s.withScript rest).deliver r)
  | resets (c : Config) (rest : List HostEvent) (hscript : s.host.script = .reset c :: rest) (hlegal : c.legal = true)
      (ht : t = State.resetWith c (s.withScript rest).host)

/-- What the sequencer does in a step from `s`. -/
inductive SequencerActs (s t : State) : Prop
  | accepts (f : Frame) (hphase : s.phase = .idle) (ht : t = (s.setPhase (.busy f)).setPort none)
  | waits (hphase : s.phase = .idle ∨ ∃ r, s.phase = .done r) (ht : t = s)
  | rejects (f : Frame) (st : Status) (hphase : s.phase = .busy f) (ht : t = s.setPhase (.done [statusWord st]))
  | runs (f : Frame) (i : Instr) (hphase : s.phase = .busy f) (hexec : exec i s = .next t)
  | draws (d : DrawLoop) (hphase : s.phase = .drawing d) (hstep : drawStep d s = .next t)

theorem hostMove_next {s t : State} (hmove : hostMove s = some (.next t)) : HostActs s t := by
  unfold hostMove at hmove
  split at hmove
  · cases hmove
  · cases hmove
  next f rest hscript =>
    split at hmove
    next hport =>
      cases hmove
      exact .submits f rest hscript (Option.isNone_iff_eq_none.mp hport) rfl
    next => cases hmove
  next rest hscript =>
    split at hmove <;> cases hmove
    exact .reads _ rest hscript ‹_› rfl
  next c rest hscript =>
    have hreset := Option.some.inj hmove
    rw [State.assertReset] at hreset
    split at hreset <;> cases hreset
    exact .resets c rest hscript ‹_› rfl

theorem sequencerStep_next {s t : State} (hstep : sequencerStep s = .next t) : SequencerActs s t := by
  cases hphase : s.phase with
  | idle =>
    rw [sequencerStep_of_idle hphase] at hstep
    cases hstep
    cases hport : s.port with
    | none => exact .waits (.inl hphase) (acceptHeld_of_none hport)
    | some f => exact .accepts f hphase (acceptHeld_of_some hport)
  | busy f =>
    rw [sequencerStep_of_busy hphase] at hstep
    cases hdec : decode s.cfg.maxFrameWords f with
    | error st =>
      rw [runFrame_of_decode_error hdec] at hstep
      cases hstep
      exact .rejects f st hphase rfl
    | ok i => exact .runs f i hphase (runFrame_of_decode_ok hdec ▸ hstep)
  | drawing d => exact .draws d hphase (sequencerStep_of_drawing hphase ▸ hstep)
  | done r =>
    rw [sequencerStep_of_done hphase] at hstep
    cases hstep
    exact .waits (.inr ⟨r, hphase⟩) rfl

theorem step_next {s t : State} (hstep : step s = .next t) : HostActs s t ∨ SequencerActs s.hostWaits t := by
  cases hmove : hostMove s with
  | some r =>
    rw [step_of_hostMove hmove] at hstep
    exact .inl (hostMove_next (hstep ▸ hmove))
  | none => exact .inr (sequencerStep_next (step_of_wait hmove ▸ hstep))

/-! ## The steps of the sequencer -/

/-- Settles O9: on the sequencer's turn a step is `sequencerStep` of the waiting state, taken by its phase. -/
theorem stepRunsTheDecodedCommand : Obligations.StepRunsTheDecodedCommand := by
  intro s hmove
  rw [step_of_wait hmove]
  refine ⟨fun f i hphase hdec => ?_, fun d hphase => ?_⟩
  · rw [sequencerStep_of_busy ((hostWaits_phase s).trans hphase), runFrame_of_decode_ok (by rwa [hostWaits_cfg])]
  · rw [sequencerStep_of_drawing ((hostWaits_phase s).trans hphase)]
    refine ⟨rfl, fun w t hprod => ?_⟩
    rw [drawStep, draw_of_produce hprod]
    split <;> rfl

/-- Settles O10: the frame runs, and the decoder's status ends it. -/
theorem stepEndsARejectedFrame : Obligations.StepEndsARejectedFrame := by
  intro s f st hmove hphase hdec
  rw [step_of_wait hmove, sequencerStep_of_busy ((hostWaits_phase s).trans hphase)]
  exact runFrame_of_decode_error (by rwa [hostWaits_cfg])

/-- Settles O11: the submission by the phase and the port, and the sequencer's own move in IDLE. -/
theorem portHoldsFramesUntilIdle : Obligations.PortHoldsFramesUntilIdle := by
  intro s f rest
  refine ⟨fun hscript hport hphase => ?idle, fun hscript hport hphase => ?held, fun hscript hport => ?full,
    fun hmove hphase hport => ?takes, fun hmove hphase hport => ?nothing⟩
  case idle =>
    rw [step_of_hostMove ((hostMove_submit hscript).trans (if_pos (Option.isNone_iff_eq_none.mpr hport))),
      submitFrame_of_idle (s := s.withScript rest) hphase]
  case held =>
    rw [step_of_hostMove ((hostMove_submit hscript).trans (if_pos (Option.isNone_iff_eq_none.mpr hport))),
      submitFrame_of_ne_idle (s := s.withScript rest) hphase]
  case full =>
    rw [step_of_wait ((hostMove_submit hscript).trans (if_neg (mt Option.isNone_iff_eq_none.mp hport))),
      hostWaits_of_not_wait (by simp [hscript])]
  case takes =>
    rw [step_of_wait hmove, sequencerStep_of_idle ((hostWaits_phase s).trans hphase),
      acceptHeld_of_some ((hostWaits_port s).trans hport)]
  case nothing =>
    rw [step_of_wait hmove, sequencerStep_of_idle ((hostWaits_phase s).trans hphase),
      acceptHeld_of_none ((hostWaits_port s).trans hport)]

/-- Settles O12: in DONE the sequencer does nothing, and the host's read is the delivery. -/
theorem responseWaitsForTheHost : Obligations.ResponseWaitsForTheHost := by
  intro s r rest hphase
  refine ⟨fun hmove => ?waits, fun hscript => ?reads⟩
  case waits => rw [step_of_wait hmove, sequencerStep_of_done ((hostWaits_phase s).trans hphase)]
  case reads =>
    exact ⟨_, step_of_hostMove (hostMove_read hscript hphase), rfl, rfl, rfl, rfl, rfl, rfl, rfl, rfl⟩

/-! ## Steps that are no reset -/

section
variable {s t : State}

/-- A command and a draw micro-step end in a response or in the draw loop. -/
theorem exec_phase_ne_idle {i : Instr} (hexec : exec i s = .next t) : t.phase ≠ .idle := by
  obtain ⟨r, hphase, -⟩ | ⟨d, hphase, -⟩ := exec_phase hexec
  · rw [hphase]; nofun
  · rw [hphase]; nofun

theorem drawStep_phase_ne_idle {d : DrawLoop} (hstep : drawStep d s = .next t) : t.phase ≠ .idle := by
  obtain ⟨w, u, -, ⟨-, rfl⟩ | ⟨-, rfl⟩⟩ := drawStep_next hstep
  · nofun
  · nofun

/-- The sequencer delivers no response, and is in IDLE only where it was there. -/
theorem SequencerActs.ledger (h : SequencerActs s t) :
    t.cfg = s.cfg ∧ t.host = s.host ∧ (t.phase = .idle → s.phase = .idle) := by
  cases h with
  | accepts f hphase ht => subst ht; exact ⟨rfl, rfl, nofun⟩
  | waits hphase ht => subst ht; exact ⟨rfl, rfl, id⟩
  | rejects f st hphase ht => subst ht; exact ⟨rfl, rfl, nofun⟩
  | runs f i hphase hexec =>
    obtain ⟨⟨hcfg, -, hhost⟩, -⟩ := commandFrame i s t hexec
    exact ⟨hcfg, hhost, fun hidle => absurd hidle (exec_phase_ne_idle hexec)⟩
  | draws d hphase hstep =>
    obtain ⟨⟨hcfg, -, hhost⟩, -⟩ := drawFrame d s t hstep
    exact ⟨hcfg, hhost, fun hidle => absurd hidle (drawStep_phase_ne_idle hstep)⟩

end

@[simp] theorem submitFrame_cfg (f : Frame) (s : State) : (s.submitFrame f).cfg = s.cfg := by
  unfold State.submitFrame
  split <;> rfl

/-- Settles O17: of the ways a step answers, only the reset writes the parameters. -/
theorem parametersFixedBetweenResets : Obligations.ParametersFixedBetweenResets := by
  intro s t hnoreset hstep
  obtain hhost | hseq := step_next hstep
  · cases hhost with
    | submits f rest hscript hport ht => rw [ht, submitFrame_cfg, withScript_cfg]
    | reads r rest hscript hphase ht => rw [ht]; rfl
    | resets c rest hscript hlegal ht => exact absurd hscript (hnoreset c rest)
  · exact hseq.ledger.1.trans (hostWaits_cfg s)

/-- Settles O13: the delivery moves DONE to IDLE, and the sequencer itself never comes back to IDLE. -/
theorem oneResponseForEachAcceptedFrame : Obligations.OneResponseForEachAcceptedFrame := by
  intro s t hnoreset hstep
  obtain hhost | hseq := step_next hstep
  · cases hhost with
    | submits f rest hscript hport ht =>
      subst ht
      by_cases hphase : s.phase = .idle
      · rw [submitFrame_of_idle (s := s.withScript rest) hphase]
        simp [hphase]
      · rw [submitFrame_of_ne_idle (s := s.withScript rest) hphase]
        simp [hphase]
    | reads r rest hscript hphase ht =>
      subst ht
      simp [State.deliver, hphase]
    | resets c rest hscript hlegal ht => exact absurd hscript (hnoreset c rest)
  · obtain ⟨-, hhost, hidle⟩ := hseq.ledger
    rw [hostWaits_phase] at hidle
    rw [hhost, hostWaits_received]
    by_cases ht : t.phase = .idle
    · simp [ht, hidle ht]
    · by_cases hs : s.phase = .idle <;> simp [ht, hs]

/-! ## Reset -/

theorem assertReset_of_illegal {c : Config} (hillegal : c.legal = false) (s : State) :
    s.assertReset c = .refused (.illegalConfig c) := if_neg (Bool.not_eq_true _ ▸ hillegal)

/-- R7, R176: what makes a configuration legal. -/
theorem legal_iff {c : Config} : c.legal = true ↔
    (∀ k, 1 ≤ unitCount c k ∧ unitCount c k ≤ 256) ∧ ∀ r ∈ c.scRounds, 4 ≤ r ∧ r % 4 = 0 := by
  have hkind : (∀ k, 1 ≤ unitCount c k ∧ unitCount c k ≤ 256) ↔
      (1 ≤ c.numSc ∧ c.numSc ≤ 256) ∧ (1 ≤ c.numTr ∧ c.numTr ≤ 256) ∧ (1 ≤ c.numLf ∧ c.numLf ≤ 256) := by
    refine ⟨fun h => ⟨h .sc, h .tr, h .lf⟩, ?_⟩
    rintro ⟨hsc, htr, hlf⟩ (_ | _ | _)
    · exact hsc
    · exact htr
    · exact hlf
  simp [Config.legal, Config.legalCount, Config.legalRounds, hkind, and_assoc]

/-- Settles O15: either disjunct contradicts `legal_iff`. -/
theorem illegalConfigurationIsRefused : Obligations.IllegalConfigurationIsRefused := by
  intro s c rest hscript hbad
  rw [step_of_reset hscript]
  refine assertReset_of_illegal (Bool.eq_false_iff.mpr fun hlegal => ?_) _
  obtain ⟨hcount, hrounds⟩ := legal_iff.mp hlegal
  obtain ⟨r, hr, hbad⟩ | ⟨k, hbad⟩ := hbad
  · have := hrounds r hr
    omega
  · have := hcount k
    omega

/-- Settles O16: the facts of every reset, at the default parameters. -/
theorem resetState : Obligations.ResetState := by
  refine ⟨rfl, fun k => ?_, fun k i => isSeeded_resetWith k i _ _, fun i g hg => ?_⟩
  · exact (num_resetWith k _ _).trans (by cases k <;> rfl)
  · rw [eq_scgAtReset_of_getElem? hg]
    exact ⟨rfl, rfl, rfl, rfl⟩

end Sys2Proof.Machine
end

section
/-!
SUPPORT. The invariant (spec/10_state.md R36, R26; spec/41_base_contract.md R141): it holds after a reset, and every
step of the host and of the sequencer keeps it.
-/

namespace Sys2Proof.Machine

/-! ## The invariant of an SCG unit -/

section
variable {c : Config} {n : Nat} {g : Scg}

/-- A production keeps the constants, and `out` stays the block of `core`: neither changes, or the refill makes both. -/
theorem scgOk_produceSc (top : CounterTop) (hok : scgOk c n g) : scgOk c n (produceSc top (c.roundsOf n) g).2 := by
  obtain ⟨hconst, hblock⟩ := hok
  refine ⟨fun k => ?_, fun hseeded => ?_⟩
  · exact (produceSc_core_getElem (notMem_counterLimbs_of_lt_four top ⟨k, by omega⟩ k.isLt) _ g).trans (hconst k)
  · rw [produceSc_seeded] at hseeded
    rcases Nat.eq_zero_or_pos g.remaining.val with hzero | hpos
    · rw [produceSc_of_zero top _ hzero]
      rfl
    · rw [produceSc_of_pos top _ hpos]
      exact hblock hseeded

theorem scgOk_initStateSc (hok : scgOk c n g) (v : Vector Word 10) : scgOk c n (initStateSc (c.roundsOf n) g v) :=
  ⟨fun k => (initStateSc_core_getElem (k := ⟨k, by omega⟩) k.isLt _ g v).trans (hok.1 k), fun _ => rfl⟩

theorem scgOk_scgAtReset (c : Config) (n : Nat) : scgOk c n (scgAtReset c) :=
  ⟨scgAtReset_core c, fun h => nomatch h⟩

end

/-! ## The invariant of the state -/

section
variable {s t : State}

/-- A state with the parameters and the bank sizes of one that meets the invariant. -/
theorem State.Inv.of_sizes (hinv : s.Inv) (hcfg : t.cfg = s.cfg) (hnum : ∀ k, t.num k = s.num k)
    (hunits : ∀ n g, t.scg[n]? = some g → scgOk t.cfg n g) (hphase : phaseOk t) : t.Inv where
  legal := hcfg ▸ hinv.legal
  scCount := (hnum .sc).trans (hcfg ▸ hinv.scCount)
  trCount := (hnum .tr).trans (hcfg ▸ hinv.trCount)
  lfCount := (hnum .lf).trans (hcfg ▸ hinv.lfCount)
  scUnits := hunits
  phase := hphase

/-- A state with the parameters and the units of one that meets the invariant. -/
theorem State.Inv.of_units (hinv : s.Inv) (hcfg : t.cfg = s.cfg) (hscg : t.scg = s.scg) (htrg : t.trg = s.trg)
    (hlfg : t.lfg = s.lfg) (hphase : phaseOk t) : t.Inv := by
  refine hinv.of_sizes hcfg (fun k => ?_) (fun n g hg => ?_) hphase
  · cases k <;> simp only [State.num, hscg, htrg, hlfg]
  · rw [hcfg]
    exact hinv.scUnits n g (hscg ▸ hg)

theorem phaseOk_of_done {r : Frame} (hphase : t.phase = .done r) : phaseOk t ↔ responseOk r := by
  simp only [phaseOk, hphase]

theorem phaseOk_of_drawing {d : DrawLoop} (hphase : t.phase = .drawing d) : phaseOk t ↔ drawOk t d := by
  simp only [phaseOk, hphase]

theorem phaseOk_congr (hphase : t.phase = s.phase) (hseeded : ∀ k i, t.isSeeded k i = s.isSeeded k i)
    (hok : phaseOk s) : phaseOk t := by
  unfold phaseOk at hok ⊢
  rw [hphase]
  cases hs : s.phase <;> simp only [hs, drawOk, hseeded] at hok ⊢ <;> exact hok

/-! ## Reset -/

theorem inv_resetWith {c : Config} (hlegal : c.legal = true) (h : HostSide) : (State.resetWith c h).Inv where
  legal := hlegal
  scCount := List.length_replicate
  trCount := List.length_replicate
  lfCount := List.length_replicate
  scUnits := fun n _ hg => eq_scgAtReset_of_getElem? hg ▸ scgOk_scgAtReset c n
  phase := trivial

/-- Settles O57: the reset state meets it for every legal configuration, and the defaults are one. -/
theorem invariantAtReset : Obligations.InvariantAtReset :=
  ⟨inv_resetWith rfl _, fun _ h hlegal => inv_resetWith hlegal h⟩

/-! ## The steps -/

theorem inv_hostWaits (hinv : s.Inv) : s.hostWaits.Inv :=
  hinv.of_units (hostWaits_cfg s) (hostWaits_scg s) (hostWaits_trg s) (hostWaits_lfg s)
    (phaseOk_congr (hostWaits_phase s) (fun k i => isSeeded_hostWaits k i s) hinv.phase)

theorem inv_exec {i : Instr} (hinv : s.Inv) (hexec : exec i s = .next t) : t.Inv := by
  obtain ⟨⟨hcfg, -⟩, houtside⟩ := commandFrame i s t hexec
  refine hinv.of_sizes hcfg (sameOutside_num houtside) (fun n h hh => ?units) ?phase
  case units =>
    rw [hcfg]
    obtain ⟨g, hg, hcase⟩ := exec_scg_cases hexec hh
    have hok := hinv.scUnits n g hg
    obtain rfl | rfl | ⟨-, v, rfl⟩ := hcase
    · exact hok
    · exact scgOk_produceSc _ hok
    · exact scgOk_initStateSc hok v
  case phase =>
    obtain ⟨r, hphase, hresponse⟩ | ⟨d, hphase, -, hdraw⟩ := exec_phase hexec
    · exact (phaseOk_of_done hphase).mpr hresponse
    · exact (phaseOk_of_drawing hphase).mpr hdraw

theorem inv_drawStep {d : DrawLoop} (hinv : s.Inv) (hdraw : drawOk s d) (hstep : drawStep d s = .next t) : t.Inv := by
  obtain ⟨⟨hcfg, -⟩, houtside, hseeded⟩ := drawFrame d s t hstep
  obtain ⟨w, u, hprod, hphase⟩ := drawStep_next hstep
  refine hinv.of_sizes hcfg (sameOutside_num houtside) (fun n h hh => ?units) ?phase
  case units =>
    rw [hcfg]
    have hhu : u.scg[n]? = some h := by
      obtain ⟨-, rfl⟩ | ⟨-, rfl⟩ := hphase
      · exact hh
      · exact hh
    obtain ⟨g, hg, rfl | rfl⟩ := produce_scg_cases hprod hhu
    · exact hinv.scUnits n _ hg
    · exact scgOk_produceSc _ (hinv.scUnits n g hg)
  case phase =>
    obtain ⟨-, rfl⟩ | ⟨-, rfl⟩ := hphase
    · exact responseOk_ok _
    · obtain ⟨hbit, hdata⟩ := hdraw
      exact ⟨(hseeded _ _).trans hbit, hdata⟩

theorem SequencerActs.inv (hinv : s.Inv) (h : SequencerActs s t) : t.Inv := by
  cases h with
  | accepts f hphase ht =>
    subst ht
    exact hinv.of_units rfl rfl rfl rfl trivial
  | waits hphase ht => exact ht ▸ hinv
  | rejects f st hphase ht =>
    subst ht
    exact hinv.of_units rfl rfl rfl rfl (responseOk_error st)
  | runs f i hphase hexec => exact inv_exec hinv hexec
  | draws d hphase hstep => exact inv_drawStep hinv ((phaseOk_of_drawing hphase).mp hinv.phase) hstep

theorem HostActs.inv (hinv : s.Inv) (h : HostActs s t) : t.Inv := by
  cases h with
  | submits f rest hscript hport ht =>
    subst ht
    by_cases hphase : s.phase = .idle
    · rw [submitFrame_of_idle (s := s.withScript rest) hphase]
      exact hinv.of_units rfl rfl rfl rfl trivial
    · rw [submitFrame_of_ne_idle (s := s.withScript rest) hphase]
      exact hinv.of_units rfl rfl rfl rfl (phaseOk_congr rfl (fun k _ => by cases k <;> rfl) hinv.phase)
  | reads r rest hscript hphase ht =>
    subst ht
    exact hinv.of_units rfl rfl rfl rfl trivial
  | resets c rest hscript hlegal ht => exact ht ▸ inv_resetWith hlegal _

/-- Settles O56: the host's acts and the sequencer's keep the invariant. -/
theorem everyStepKeepsTheInvariant : Obligations.EveryStepKeepsTheInvariant := fun _ _ hinv hstep =>
  (step_next hstep).elim (·.inv hinv) (·.inv (inv_hostWaits hinv))

/-! ## No step stops -/

theorem sequencerStep_answers (hok : phaseOk s) : ∃ t, sequencerStep s = .next t := by
  cases hphase : s.phase with
  | idle => exact ⟨_, sequencerStep_of_idle hphase⟩
  | busy f =>
    rw [sequencerStep_of_busy hphase]
    exact (checked_runFrame s f).answers
  | drawing d =>
    rw [sequencerStep_of_drawing hphase]
    obtain ⟨hseeded, -⟩ := (phaseOk_of_drawing hphase).mp hok
    exact drawStep_answers (isSeeded_lt hseeded)
  | done r => exact ⟨s, sequencerStep_of_done hphase⟩

/-- The host's move, where it acts, answers; only a reset with an illegal configuration is refused. -/
theorem hostMove_answers {r : Result} (hmove : hostMove s = some r) :
    (∃ t, r = .next t) ∨
      ∃ c rest, s.host.script = .reset c :: rest ∧ c.legal = false ∧ r = .refused (.illegalConfig c) := by
  unfold hostMove at hmove
  split at hmove
  · cases hmove
  · cases hmove
  · split at hmove <;> cases hmove
    exact .inl ⟨_, rfl⟩
  · split at hmove <;> cases hmove
    exact .inl ⟨_, rfl⟩
  next c rest hscript =>
    cases hmove
    cases hlegal : c.legal with
    | true => exact .inl ⟨_, assertReset_of_legal hlegal _⟩
    | false => exact .inr ⟨c, rest, hscript, hlegal, assertReset_of_illegal hlegal _⟩

/-- Settles O58: the host's move answers but for an illegal reset, and in a draw loop the invariant gives the unit. -/
theorem stepsNeverStop : Obligations.StepsNeverStop := by
  intro s hinv
  cases hmove : hostMove s with
  | some r =>
    rw [step_of_hostMove hmove]
    exact hostMove_answers hmove
  | none =>
    rw [step_of_wait hmove]
    exact .inl (sequencerStep_answers (inv_hostWaits hinv).phase)

end

end Sys2Proof.Machine
end

section
/-!
SUPPORT. Relations between two states that a command cannot tell apart: what such a relation has to keep of the unit the
command names, and that the command then answers both states alike. The last two statements are two such relations.
-/

namespace Sys2Proof.Machine

/-- The common body of NEXT (`nextCommand`) and RDBL (`rdblCommand`): the checks, one draw, and a response made from its
word. -/
def drawCommand (k : Kind) (inst : BitVec 8) (f : Word → List Word) (s : State) : Result :=
  requireUnit k inst s (requireSeeded k inst s (s.draw k inst.toNat fun w t => t.respond (f w)))

theorem nextCommand_eq_drawCommand (k : Kind) (inst : BitVec 8) (s : State) :
    nextCommand k inst s = drawCommand k inst (fun w => [w]) s := rfl

theorem rdblCommand_eq_drawCommand (k : Kind) (inst : BitVec 8) (s : State) :
    rdblCommand k inst s = drawCommand k inst doubleWords s := rfl

/-- Two outcomes of the same kind: the same stop, or next states in the relation and in the same phase. -/
def Alike (R : State → State → Prop) : Result → Result → Prop
  | .next a, .next b => R a b ∧ a.phase = b.phase
  | .fault x, .fault y => x = y
  | .refused x, .refused y => x = y
  | _, _ => False

/-- A relation that says nothing of the phase, and that the operations on the unit `x` keep. -/
structure Indistinct (x : Option (Kind × Nat)) (R : State → State → Prop) : Prop where
  setPhase {s t : State} (p : Phase) : R s t → R (s.setPhase p) (t.setPhase p)
  num {s t : State} {k : Kind} {n : Nat} : x = some (k, n) → R s t → s.num k = t.num k
  isSeeded {s t : State} {k : Kind} {n : Nat} : x = some (k, n) → R s t → s.isSeeded k n = t.isSeeded k n
  produce {s t s' : State} {k : Kind} {n : Nat} {w : Word} : x = some (k, n) → R s t → s.isSeeded k n = true →
    s.produce k n = some (w, s') → ∃ t', t.produce k n = some (w, t') ∧ R s' t'
  seedUnit {s t : State} {k : Kind} {n : Nat} (w : List Word) : x = some (k, n) → n < s.num k → R s t →
    R (s.seedUnit k n w) (t.seedUnit k n w)

section
variable {x : Option (Kind × Nat)} {R : State → State → Prop} (hR : Indistinct x R) {s t : State} (hst : R s t)
include hR hst

theorem Indistinct.respond (ws : List Word) : Alike R (s.respond ws) (t.respond ws) := ⟨hR.setPhase _ hst, rfl⟩

theorem Indistinct.raise (st : Status) : Alike R (s.raise st) (t.raise st) := ⟨hR.setPhase _ hst, rfl⟩

variable {k : Kind} {inst : BitVec 8}

/-- A draw from a seeded unit: the same word, and states in the relation for what follows. -/
theorem Indistinct.draw {n : Nat} (hx : x = some (k, n)) (hseeded : s.isSeeded k n = true)
    {f : Word → State → Result} (hf : ∀ w a b, R a b → Alike R (f w a) (f w b)) :
    Alike R (s.draw k n f) (t.draw k n f) := by
  obtain ⟨w, s', hs⟩ := isSeeded_produce hseeded
  obtain ⟨t', ht, hst'⟩ := hR.produce hx hst hseeded hs
  rw [draw_of_produce hs, draw_of_produce ht]
  exact hf w s' t' hst'

theorem Indistinct.drawStep {d : DrawLoop} (hx : x = some (d.kind, d.inst))
    (hseeded : s.isSeeded d.kind d.inst = true) : Alike R (drawStep d s) (drawStep d t) := by
  refine hR.draw hst hx hseeded fun w a b hab => ?_
  split
  · exact hR.respond hab _
  · exact ⟨hR.setPhase _ hab, rfl⟩

variable (hx : x = some (k, inst.toNat))
include hx

theorem Indistinct.requireUnit {a b : Result} (hab : inst.toNat < s.num k → Alike R a b) :
    Alike R (requireUnit k inst s a) (requireUnit k inst t b) := by
  have hnum := hR.num hx hst
  rcases Nat.lt_or_ge inst.toNat (s.num k) with hlt | hge
  · rw [requireUnit_of_lt hlt, requireUnit_of_lt (hnum ▸ hlt)]
    exact hab hlt
  · rw [requireUnit_of_ge hge, requireUnit_of_ge (hnum ▸ hge)]
    exact hR.raise hst _

theorem Indistinct.requireSeeded {a b : Result} (hab : s.isSeeded k inst.toNat = true → Alike R a b) :
    Alike R (requireSeeded k inst s a) (requireSeeded k inst t b) := by
  have hbit := hR.isSeeded hx hst
  cases hseeded : s.isSeeded k inst.toNat with
  | true =>
    rw [requireSeeded_of hseeded, requireSeeded_of (hbit ▸ hseeded)]
    exact hab hseeded
  | false =>
    rw [requireSeeded_of_not hseeded, requireSeeded_of_not (hbit ▸ hseeded)]
    exact hR.raise hst _

theorem Indistinct.seedCommand (w : List Word) : Alike R (seedCommand k inst w s) (seedCommand k inst w t) :=
  hR.requireUnit hst hx fun hlt => hR.respond (hR.seedUnit w hx hlt hst) []

theorem Indistinct.drawCommand (f : Word → List Word) : Alike R (drawCommand k inst f s) (drawCommand k inst f t) :=
  hR.requireUnit hst hx fun _ => hR.requireSeeded hst hx fun hseeded =>
    hR.draw hst hx hseeded fun _ _ _ hab => hR.respond hab _

theorem Indistinct.rangeCommand (lower upper : Int) :
    Alike R (rangeCommand k inst lower upper s) (rangeCommand k inst lower upper t) := by
  unfold Machine.rangeCommand
  split_ifs
  · exact hR.raise hst _
  · exact hR.raise hst _
  · exact hR.requireSeeded hst hx fun hseeded => hR.drawStep hst hx hseeded

theorem Indistinct.rrangeCommand (lower upper : BitVec 64) :
    Alike R (rrangeCommand k inst lower upper s) (rrangeCommand k inst lower upper t) :=
  hR.requireUnit hst hx fun _ => hR.rangeCommand hst hx _ _

theorem Indistinct.rindexCommand (count : BitVec 64) :
    Alike R (rindexCommand k inst count s) (rindexCommand k inst count t) := by
  refine hR.requireUnit hst hx fun _ => ?_
  split
  · exact hR.raise hst _
  · exact hR.rangeCommand hst hx _ _

end

/-- A command answers alike on two states that nothing it does to its own unit can tell apart. -/
theorem Indistinct.exec {i : Instr} {R : State → State → Prop} (hR : Indistinct (target i) R) {s t : State}
    (hst : R s t) : Alike R (exec i s) (exec i t) := by
  cases i using instr_byClass
  case hash rate m ws =>
    show Alike R (execHash rate m ws s) (execHash rate m ws t)
    unfold execHash
    split
    · exact hR.respond hst _
    · exact hR.raise hst _
  case seed inst ws k =>
    simp only [exec_seedInstr]
    exact hR.seedCommand hst (target_seedInstr inst ws k) ws
  case next inst k =>
    simp only [exec_nextInstr, nextCommand_eq_drawCommand]
    exact hR.drawCommand hst (target_nextInstr inst k) _
  case rdbl inst k =>
    simp only [exec_rdblInstr, rdblCommand_eq_drawCommand]
    exact hR.drawCommand hst (target_rdblInstr inst k) _
  case rrange inst lower upper k =>
    simp only [exec_rrangeInstr]
    exact hR.rrangeCommand hst (target_rrangeInstr inst lower upper k) _ _
  case rindex inst count k =>
    simp only [exec_rindexInstr]
    exact hR.rindexCommand hst (target_rindexInstr inst count k) _

end Sys2Proof.Machine
end

section
/-!
SUPPORT. States that differ only in values left unspecified at reset (spec/10_state.md R38): no command and no step can
tell them apart.
-/

namespace Sys2Proof.Machine

/-! ## Banks related unit by unit -/

section
variable {α : Type} {R : α → α → Prop} {l l' : List α} {i : Nat}

theorem forall₂_getElem? (h : List.Forall₂ R l l') {a : α} (ha : l[i]? = some a) : ∃ b, l'[i]? = some b ∧ R a b := by
  obtain ⟨hlt, rfl⟩ := List.getElem?_eq_some_iff.mp ha
  have hlt' : i < l'.length := h.length_eq ▸ hlt
  exact ⟨l'[i], List.getElem?_eq_getElem hlt', h.get hlt hlt'⟩

theorem forall₂_modify (h : List.Forall₂ R l l') {f g : α → α} (hfg : ∀ a b, R a b → R (f a) (g b)) :
    List.Forall₂ R (l.modify i f) (l'.modify i g) := by
  induction h generalizing i with
  | nil => simp
  | cons hab htail ih =>
    cases i with
    | zero => exact .cons (hfg _ _ hab) htail
    | succ i => exact .cons hab ih

theorem forall₂_set (h : List.Forall₂ R l l') {a : α} (ha : R a a) : List.Forall₂ R (l.set i a) (l'.set i a) := by
  rw [List.set_eq_modify, List.set_eq_modify]
  exact forall₂_modify h fun _ _ _ => ha

/-- A bit that related units share is the same at every index. -/
theorem forall₂_any (h : List.Forall₂ R l l') {p : α → Bool} (hp : ∀ a b, R a b → p a = p b) :
    (l[i]?).any p = (l'[i]?).any p := by
  cases hl : l[i]? with
  | none =>
    have hge : l'.length ≤ i := h.length_eq ▸ List.getElem?_eq_none_iff.mp hl
    rw [List.getElem?_eq_none hge]
  | some a =>
    obtain ⟨b, hb, hab⟩ := forall₂_getElem? h hl
    rw [hb]
    exact hp a b hab

end

/-! ## Units -/

theorem scgAgree_refl (g : Scg) : scgAgree g g := ⟨rfl, fun _ => rfl, fun _ => rfl⟩
theorem trgAgree_refl (g : Trg) : trgAgree g g := ⟨rfl, fun _ => rfl⟩
theorem lfgAgree_refl (g : Lfg) : lfgAgree g g := ⟨rfl, fun _ => rfl⟩

/-! ## States -/

section
variable {s t : State}

theorem State.Agree.refl (s : State) : s.Agree s :=
  ⟨rfl, rfl, rfl, rfl, List.forall₂_same.mpr fun g _ => scgAgree_refl g,
    List.forall₂_same.mpr fun g _ => trgAgree_refl g, List.forall₂_same.mpr fun g _ => lfgAgree_refl g⟩

theorem State.Agree.setPhase (h : s.Agree t) (p : Phase) : (s.setPhase p).Agree (t.setPhase p) :=
  { h with phase := rfl }

theorem State.Agree.setPort (h : s.Agree t) (f : Option Frame) : (s.setPort f).Agree (t.setPort f) :=
  { h with port := rfl }

theorem State.Agree.setHost (h : s.Agree t) (x : HostSide) : (s.setHost x).Agree (t.setHost x) :=
  { h with host := rfl }

theorem State.Agree.withScript (h : s.Agree t) (rest : List HostEvent) :
    (s.withScript rest).Agree (t.withScript rest) := by
  rw [State.withScript, State.withScript, h.host]
  exact h.setHost _

theorem State.Agree.num (h : s.Agree t) (k : Kind) : s.num k = t.num k := by
  cases k
  · exact h.scg.length_eq
  · exact h.trg.length_eq
  · exact h.lfg.length_eq

theorem State.Agree.isSeeded (h : s.Agree t) (k : Kind) (i : Nat) : s.isSeeded k i = t.isSeeded k i := by
  cases k
  · exact forall₂_any h.scg fun _ _ hab => hab.1
  · exact forall₂_any h.trg fun _ _ hab => hab.1
  · exact forall₂_any h.lfg fun _ _ hab => hab.1

/-- A seeded unit is the same in both states, so its production is too. -/
theorem State.Agree.produce (h : s.Agree t) {k : Kind} {i : Nat} {w : Word} {s' : State}
    (hseeded : s.isSeeded k i = true) (hprod : s.produce k i = some (w, s')) :
    ∃ t', t.produce k i = some (w, t') ∧ s'.Agree t' := by
  cases k with
  | sc =>
    obtain ⟨g, hg, rfl, rfl⟩ := produce_sc_eq_some_iff.mp hprod
    obtain ⟨g', hg', -, hsame, -⟩ := forall₂_getElem? h.scg hg
    cases hsame (by simpa [State.isSeeded, hg] using hseeded)
    refine ⟨_, produce_sc_eq_some_iff.mpr ⟨g, hg', by rw [h.cfg], rfl⟩, ?_⟩
    exact { h with scg := h.cfg ▸ forall₂_set h.scg (scgAgree_refl _) }
  | tr =>
    obtain ⟨g, hg, rfl, rfl⟩ := produce_tr_eq_some_iff.mp hprod
    obtain ⟨g', hg', -, hsame⟩ := forall₂_getElem? h.trg hg
    cases hsame (by simpa [State.isSeeded, hg] using hseeded)
    exact ⟨_, produce_tr_eq_some_iff.mpr ⟨g, hg', rfl, rfl⟩, { h with trg := forall₂_set h.trg (trgAgree_refl _) }⟩
  | lf =>
    obtain ⟨g, hg, rfl, rfl⟩ := produce_lf_eq_some_iff.mp hprod
    obtain ⟨g', hg', -, hsame⟩ := forall₂_getElem? h.lfg hg
    cases hsame (by simpa [State.isSeeded, hg] using hseeded)
    exact ⟨_, produce_lf_eq_some_iff.mpr ⟨g, hg', rfl, rfl⟩, { h with lfg := forall₂_set h.lfg (lfgAgree_refl _) }⟩

/-- A seeding reads nothing of the old unit but the constants, on which the units agree. -/
theorem State.Agree.seedUnit (h : s.Agree t) (k : Kind) (i : Nat) (w : List Word) :
    (s.seedUnit k i w).Agree (t.seedUnit k i w) := by
  cases k with
  | sc =>
    refine { h with scg := forall₂_modify h.scg fun g g' hagree => ?_ }
    rw [h.cfg, initStateSc_congr hagree.2.2]
    exact scgAgree_refl _
  | tr => exact { h with trg := forall₂_modify h.trg fun _ _ _ => trgAgree_refl _ }
  | lf => exact { h with lfg := forall₂_modify h.lfg fun _ _ _ => lfgAgree_refl _ }

theorem indistinct_agree (x : Option (Kind × Nat)) : Indistinct x State.Agree where
  setPhase p h := h.setPhase p
  num _ h := h.num _
  isSeeded _ h := h.isSeeded _ _
  produce _ h := h.produce
  seedUnit w _ _ h := h.seedUnit _ _ w

theorem outcomesAgree_of_alike {a b : Result} (h : Alike State.Agree a b) : outcomesAgree a b := by
  cases a <;> cases b
  case next.next => exact h.1
  all_goals exact h

/-! ## Steps -/

theorem State.Agree.hostWaits (h : s.Agree t) : s.hostWaits.Agree t.hostWaits := by
  rw [State.hostWaits, State.hostWaits, h.host]
  split
  · exact h.withScript _
  · exact h

theorem State.Agree.submitFrame (h : s.Agree t) (f : Frame) : (s.submitFrame f).Agree (t.submitFrame f) := by
  rw [State.submitFrame, State.submitFrame, h.phase]
  split
  · exact h.setPhase _
  all_goals exact h.setPort _

theorem State.Agree.acceptHeld (h : s.Agree t) : s.acceptHeld.Agree t.acceptHeld := by
  rw [State.acceptHeld, State.acceptHeld, h.port]
  split
  · exact (h.setPhase _).setPort none
  · exact h

theorem State.Agree.deliver (h : s.Agree t) (r : Frame) : (s.deliver r).Agree (t.deliver r) := by
  rw [State.deliver, State.deliver, h.host]
  exact (h.setPhase .idle).setHost _

theorem State.Agree.assertReset (h : s.Agree t) (c : Config) : outcomesAgree (s.assertReset c) (t.assertReset c) := by
  rw [State.assertReset, State.assertReset, h.host]
  split
  · exact State.Agree.refl _
  · exact rfl

theorem State.Agree.runFrame (h : s.Agree t) (f : Frame) : outcomesAgree (runFrame f s) (runFrame f t) := by
  rw [Machine.runFrame, Machine.runFrame, h.cfg]
  split
  · exact h.setPhase _
  · exact outcomesAgree_of_alike ((indistinct_agree _).exec h)

/-- The sequencer's move: the unit of a draw loop is seeded, so it is the same in both states. -/
theorem State.Agree.sequencerStep (h : s.Agree t) (hok : phaseOk s) :
    outcomesAgree (sequencerStep s) (sequencerStep t) := by
  cases hphase : s.phase with
  | idle =>
    rw [sequencerStep_of_idle hphase, sequencerStep_of_idle (h.phase.symm.trans hphase)]
    exact h.acceptHeld
  | busy f =>
    rw [sequencerStep_of_busy hphase, sequencerStep_of_busy (h.phase.symm.trans hphase)]
    exact h.runFrame f
  | drawing d =>
    rw [sequencerStep_of_drawing hphase, sequencerStep_of_drawing (h.phase.symm.trans hphase)]
    obtain ⟨hseeded, -⟩ := (phaseOk_of_drawing hphase).mp hok
    exact outcomesAgree_of_alike ((indistinct_agree _).drawStep h rfl hseeded)
  | done r =>
    rw [sequencerStep_of_done hphase, sequencerStep_of_done (h.phase.symm.trans hphase)]
    exact h

/-- The host acts on both states alike, or on neither. -/
theorem State.Agree.hostMove (h : s.Agree t) :
    Option.Rel outcomesAgree (hostMove s) (hostMove t) := by
  rw [Machine.hostMove, Machine.hostMove, ← h.host]
  split
  · exact .none
  · exact .none
  next f rest _ =>
    rw [← h.port]
    split
    · exact .some ((h.withScript rest).submitFrame f)
    · exact .none
  next rest _ =>
    rw [← h.phase]
    split
    next r _ => exact .some ((h.withScript rest).deliver r)
    all_goals exact .none
  next c rest _ => exact .some ((h.withScript rest).assertReset c)

end

/-- Settles O60: the host acts on both states or on neither, and then the sequencer does what it does on both. -/
theorem unspecifiedValuesAreUnobservable : Obligations.UnspecifiedValuesAreUnobservable := by
  intro s t hinv h
  have hmove := h.hostMove
  unfold step
  generalize hostMove s = a, hostMove t = b at hmove ⊢
  cases hmove with
  | some hr => exact hr
  | none => exact h.hostWaits.sequencerStep (inv_hostWaits hinv).phase

end Sys2Proof.Machine
end

section
/-!
SUPPORT. Commands on different units (spec/20_memory.md R62): a command reads the parameters, the bank sizes and its own
unit alone, so it does the same before and after a command on another unit.
-/

namespace Sys2Proof.Machine

/-! ## States with the same unit -/

/-- Two states with the same parameters and bank sizes, and the same unit `x` where `x` names one. -/
structure SameAt (x : Option (Kind × Nat)) (s t : State) : Prop where
  cfg : s.cfg = t.cfg
  num : ∀ k, s.num k = t.num k
  sc : ∀ n, x = some (.sc, n) → s.scg[n]? = t.scg[n]?
  tr : ∀ n, x = some (.tr, n) → s.trg[n]? = t.trg[n]?
  lf : ∀ n, x = some (.lf, n) → s.lfg[n]? = t.lfg[n]?

section
variable {x y : Option (Kind × Nat)} {s t u : State}

theorem SameAt.symm (h : SameAt x s t) : SameAt x t s :=
  ⟨h.cfg.symm, fun k => (h.num k).symm, fun n hx => (h.sc n hx).symm, fun n hx => (h.tr n hx).symm,
    fun n hx => (h.lf n hx).symm⟩

theorem SameAt.trans (h : SameAt x s t) (h' : SameAt x t u) : SameAt x s u :=
  ⟨h.cfg.trans h'.cfg, fun k => (h.num k).trans (h'.num k), fun n hx => (h.sc n hx).trans (h'.sc n hx),
    fun n hx => (h.tr n hx).trans (h'.tr n hx), fun n hx => (h.lf n hx).trans (h'.lf n hx)⟩

/-- What leaves all units but `x` leaves a unit that is not `x`. -/
theorem sameAt_of_sameOutside (hcfg : t.cfg = s.cfg) (hsame : sameOutside x s t) (hne : ∀ q, y = some q → x ≠ some q) :
    SameAt y s t := by
  have hnum := sameOutside_num hsame
  obtain ⟨⟨-, hsc⟩, ⟨-, htr⟩, -, hlf⟩ := hsame
  exact ⟨hcfg.symm, fun k => (hnum k).symm, fun n hy => (hsc n (hne _ hy)).symm, fun n hy => (htr n (hne _ hy)).symm,
    fun n hy => (hlf n (hne _ hy)).symm⟩

/-- States that are the same at every unit and outside the units are the same. -/
theorem eq_of_sameAt (h : ∀ q, SameAt (some q) s t) (hphase : s.phase = t.phase) (hport : s.port = t.port)
    (hhost : s.host = t.host) : s = t :=
  state_ext (h (.sc, 0)).cfg (List.ext_getElem? fun n => (h (.sc, n)).sc n rfl)
    (List.ext_getElem? fun n => (h (.tr, n)).tr n rfl) (List.ext_getElem? fun n => (h (.lf, n)).lf n rfl)
    hphase hport hhost

/-! ## A command reads its own unit alone -/

theorem SameAt.isSeeded {k : Kind} {n : Nat} (hx : x = some (k, n)) (h : SameAt x s t) :
    s.isSeeded k n = t.isSeeded k n := by
  cases k
  · rw [State.isSeeded, State.isSeeded, h.sc n hx]
  · rw [State.isSeeded, State.isSeeded, h.tr n hx]
  · rw [State.isSeeded, State.isSeeded, h.lf n hx]

theorem SameAt.setScg {n : Nat} {b b' : List Scg} (h : SameAt (some (.sc, n)) s t) (hb : b.length = s.num .sc)
    (hb' : b'.length = t.num .sc) (hn : b[n]? = b'[n]?) : SameAt (some (.sc, n)) (s.setScg b) (t.setScg b') where
  cfg := h.cfg
  num k := by
    cases k
    · exact hb.trans ((h.num .sc).trans hb'.symm)
    · exact h.num .tr
    · exact h.num .lf
  sc := by rintro _ ⟨⟩; exact hn
  tr := nofun
  lf := nofun

theorem SameAt.setTrg {n : Nat} {b b' : List Trg} (h : SameAt (some (.tr, n)) s t) (hb : b.length = s.num .tr)
    (hb' : b'.length = t.num .tr) (hn : b[n]? = b'[n]?) : SameAt (some (.tr, n)) (s.setTrg b) (t.setTrg b') where
  cfg := h.cfg
  num k := by
    cases k
    · exact h.num .sc
    · exact hb.trans ((h.num .tr).trans hb'.symm)
    · exact h.num .lf
  sc := nofun
  tr := by rintro _ ⟨⟩; exact hn
  lf := nofun

theorem SameAt.setLfg {n : Nat} {b b' : List Lfg} (h : SameAt (some (.lf, n)) s t) (hb : b.length = s.num .lf)
    (hb' : b'.length = t.num .lf) (hn : b[n]? = b'[n]?) : SameAt (some (.lf, n)) (s.setLfg b) (t.setLfg b') where
  cfg := h.cfg
  num k := by
    cases k
    · exact h.num .sc
    · exact h.num .tr
    · exact hb.trans ((h.num .lf).trans hb'.symm)
  sc := nofun
  tr := nofun
  lf := by rintro _ ⟨⟩; exact hn

theorem SameAt.produce {k : Kind} {n : Nat} {w : Word} {s' : State} (h : SameAt (some (k, n)) s t)
    (hprod : s.produce k n = some (w, s')) : ∃ t', t.produce k n = some (w, t') ∧ SameAt (some (k, n)) s' t' := by
  cases k with
  | sc =>
    obtain ⟨g, hg, rfl, rfl⟩ := produce_sc_eq_some_iff.mp hprod
    have hg' := (h.sc n rfl).symm.trans hg
    refine ⟨_, produce_sc_eq_some_iff.mpr ⟨g, hg', by rw [h.cfg], rfl⟩, ?_⟩
    refine h.setScg List.length_set List.length_set ?_
    rw [List.getElem?_set_self', List.getElem?_set_self', hg, hg', h.cfg]
  | tr =>
    obtain ⟨g, hg, rfl, rfl⟩ := produce_tr_eq_some_iff.mp hprod
    have hg' := (h.tr n rfl).symm.trans hg
    refine ⟨_, produce_tr_eq_some_iff.mpr ⟨g, hg', rfl, rfl⟩, h.setTrg List.length_set List.length_set ?_⟩
    rw [List.getElem?_set_self', List.getElem?_set_self', hg, hg']
  | lf =>
    obtain ⟨g, hg, rfl, rfl⟩ := produce_lf_eq_some_iff.mp hprod
    have hg' := (h.lf n rfl).symm.trans hg
    refine ⟨_, produce_lf_eq_some_iff.mpr ⟨g, hg', rfl, rfl⟩, h.setLfg List.length_set List.length_set ?_⟩
    rw [List.getElem?_set_self', List.getElem?_set_self', hg, hg']

theorem SameAt.seedUnit {k : Kind} {n : Nat} (h : SameAt (some (k, n)) s t) (w : List Word) :
    SameAt (some (k, n)) (s.seedUnit k n w) (t.seedUnit k n w) := by
  cases k with
  | sc =>
    refine h.setScg (List.length_modify ..) (List.length_modify ..) ?_
    rw [List.getElem?_modify_eq, List.getElem?_modify_eq, h.sc n rfl, h.cfg]
  | tr =>
    refine h.setTrg (List.length_modify ..) (List.length_modify ..) ?_
    rw [List.getElem?_modify_eq, List.getElem?_modify_eq, h.tr n rfl]
  | lf =>
    refine h.setLfg (List.length_modify ..) (List.length_modify ..) ?_
    rw [List.getElem?_modify_eq, List.getElem?_modify_eq, h.lf n rfl]

theorem indistinct_sameAt (x : Option (Kind × Nat)) : Indistinct x (SameAt x) where
  setPhase _ h := ⟨h.cfg, fun k => by simpa using h.num k, h.sc, h.tr, h.lf⟩
  num _ h := h.num _
  isSeeded hx h := h.isSeeded hx
  produce hx h _ hprod := by subst hx; exact h.produce hprod
  seedUnit w hx _ h := by subst hx; exact h.seedUnit w

end

/-! ## Running a draw loop to its end -/

/-- The state is in a draw loop of the seeded unit `x`, or in none. -/
def LoopOf (x : Option (Kind × Nat)) (s : State) : Prop :=
  ∀ d, s.phase = .drawing d → x = some (d.kind, d.inst) ∧ s.isSeeded d.kind d.inst = true

section
variable {x : Option (Kind × Nat)} {s t : State}

theorem loopOf_exec {i : Instr} (hexec : exec i s = .next t) : LoopOf (target i) t := by
  intro d hphase
  obtain ⟨r, hdone, -⟩ | ⟨d', hdraw, htarget, hseeded, -⟩ := exec_phase hexec
  · cases hphase.symm.trans hdone
  · cases hphase.symm.trans hdraw
    exact ⟨htarget, hseeded⟩

theorem loopOf_drawStep {d : DrawLoop} (hloop : LoopOf x s) (hphase : s.phase = .drawing d)
    (hstep : drawStep d s = .next t) : LoopOf x t := by
  intro d' hphase'
  obtain ⟨hx, hseeded⟩ := hloop d hphase
  obtain ⟨-, -, hbits⟩ := drawFrame d s t hstep
  obtain ⟨w, u, -, ⟨-, rfl⟩ | ⟨-, rfl⟩⟩ := drawStep_next hstep
  · cases hphase'
  · cases hphase'
    exact ⟨hx, (hbits _ _).trans hseeded⟩

theorem finish_of_stopped {n : Nat} (hstop : n = 0 ∨ ∀ d, s.phase ≠ .drawing d) : finish n s = .next s := by
  cases n with
  | zero => rfl
  | succ n =>
    have hphase := hstop.resolve_left n.succ_ne_zero
    rw [finish]
    split
    next d h => exact absurd h (hphase d)
    all_goals rfl

theorem finish_succ_of_drawing {d : DrawLoop} (hphase : s.phase = .drawing d) (hstep : drawStep d s = .next t)
    (n : Nat) : finish (n + 1) s = finish n t := by
  simp only [finish, hphase, hstep]

/-- The ways `finish` goes on from a loop of `x`: it stops at once, or makes one micro-step first. -/
theorem finish_induction {motive : Nat → State → Prop}
    (stop : ∀ n s, (n = 0 ∨ ∀ d, s.phase ≠ .drawing d) → motive n s)
    (draw : ∀ n s u d, s.phase = .drawing d → LoopOf x s → drawStep d s = .next u → motive n u → motive (n + 1) s)
    (n : Nat) {s : State} (hloop : LoopOf x s) : motive n s := by
  induction n generalizing s with
  | zero => exact stop 0 s (.inl rfl)
  | succ n ih =>
    by_cases hphase : ∃ d, s.phase = .drawing d
    · obtain ⟨d, hphase⟩ := hphase
      obtain ⟨u, hstep⟩ := drawStep_answers (isSeeded_lt (hloop d hphase).2)
      exact draw n s u d hphase hloop hstep (ih (loopOf_drawStep hloop hphase hstep))
    · exact stop _ s (.inr (not_exists.mp hphase))

theorem finish_frame {n : Nat} (hloop : LoopOf x s) (hfin : finish n s = .next t) :
    sameFixed s t ∧ sameOutside x s t := by
  revert hfin
  refine finish_induction (motive := fun n s => finish n s = .next t → sameFixed s t ∧ sameOutside x s t)
    (fun n s hstop hfin => ?stop) (fun n s u d hphase hloop hstep ih hfin => ?draw) n hloop
  case stop =>
    cases (finish_of_stopped hstop).symm.trans hfin
    exact ⟨⟨rfl, rfl, rfl⟩, sameOutside_of_banks rfl rfl rfl⟩
  case draw =>
    obtain ⟨hfixed, houtside⟩ := ih (finish_succ_of_drawing hphase hstep n ▸ hfin)
    obtain ⟨hfixed', houtside', -⟩ := drawFrame d s u hstep
    rw [← (hloop d hphase).1] at houtside'
    exact ⟨sameFixed_trans hfixed' hfixed, sameOutside_trans houtside' houtside⟩

/-! ## Two runs alike -/

theorem Alike.next_left {R : State → State → Prop} {r : Result} (h : Alike R (.next s) r) :
    ∃ t, r = .next t ∧ R s t ∧ s.phase = t.phase := by
  cases r with
  | next t => exact ⟨t, rfl, h⟩
  | fault e => cases h
  | refused e => cases h

theorem Indistinct.finish {R : State → State → Prop} (hR : Indistinct x R) (n : Nat) (hloop : LoopOf x s) (hst : R s t)
    (hphase : s.phase = t.phase) : Alike R (finish n s) (finish n t) := by
  revert t
  refine finish_induction
    (motive := fun n s => ∀ {t}, R s t → s.phase = t.phase → Alike R (Machine.finish n s) (Machine.finish n t))
    (fun n s hstop t hst hphase => ?stop) (fun n s u d hdraw hloop hstep ih t hst hphase => ?draw) n hloop
  case stop =>
    rw [finish_of_stopped hstop, finish_of_stopped (hphase ▸ hstop)]
    exact ⟨hst, hphase⟩
  case draw =>
    obtain ⟨hx, hseeded⟩ := hloop d hdraw
    obtain ⟨v, hstep', huv, hphase'⟩ := (hstep ▸ hR.drawStep hst hx hseeded : Alike R (.next u) _).next_left
    rw [finish_succ_of_drawing hdraw hstep, finish_succ_of_drawing (hphase.symm.trans hdraw) hstep']
    exact ih huv hphase'

end

/-! ## Whole commands -/

section
variable {i j : Instr} {s t u : State} {r : Frame}

theorem Completes.frame (h : Completes i s r t) : sameFixed s t ∧ sameOutside (target i) s t := by
  obtain ⟨n, u, hexec, hfin, -⟩ := h
  obtain ⟨hfixed, houtside⟩ := commandFrame i s u hexec
  obtain ⟨hfixed', houtside'⟩ := finish_frame (loopOf_exec hexec) hfin
  exact ⟨sameFixed_trans hfixed hfixed', sameOutside_trans houtside houtside'⟩

theorem Completes.sameAt_of_ne {x : Option (Kind × Nat)} (h : Completes i s r t)
    (hne : ∀ q, x = some q → target i ≠ some q) : SameAt x s t :=
  sameAt_of_sameOutside h.frame.1.1 h.frame.2 hne

/-- A command that completes does so with the same response from every state with the same unit. -/
theorem Completes.transport (h : Completes i s r t) (hsame : SameAt (target i) s u) :
    ∃ v, Completes i u r v ∧ SameAt (target i) t v := by
  obtain ⟨n, a, hexec, hfin, hdone⟩ := h
  have hR := indistinct_sameAt (target i)
  obtain ⟨b, hexec', hab, hphase⟩ := (hexec ▸ hR.exec hsame : Alike _ (.next a) _).next_left
  obtain ⟨v, hfin', htv, hphase'⟩ :=
    (hfin ▸ hR.finish n (loopOf_exec hexec) hab hphase : Alike _ (.next t) _).next_left
  exact ⟨v, ⟨n, b, hexec', hfin', hphase'.symm.trans hdone⟩, htv⟩

theorem disjointTargets.ne (h : disjointTargets i j) : ∀ q, target j = some q → target i ≠ some q := by
  rintro q hj hi
  obtain hnone | hnone | hne := h
  · cases hnone.symm.trans hi
  · cases hnone.symm.trans hj
  · exact hne (hi.trans hj.symm)

theorem disjointTargets.symm (h : disjointTargets i j) : disjointTargets j i := by
  obtain hnone | hnone | hne := h
  · exact .inr (.inl hnone)
  · exact .inl hnone
  · exact .inr (.inr hne.symm)

end

/-- Settles O59: each command finds its unit as before the other one, and leaves the other's unit alone. -/
theorem commandsOnDifferentUnitsCommute : Obligations.CommandsOnDifferentUnitsCommute := by
  intro i j s s1 s2 ri rj hdisjoint hi hj
  obtain ⟨t1, hj', hjUnit⟩ := hj.transport (hi.sameAt_of_ne hdisjoint.ne).symm
  obtain ⟨t2, hi', hiUnit⟩ := hi.transport (hj'.sameAt_of_ne hdisjoint.symm.ne)
  obtain ⟨-, hport, hhost⟩ := sameFixed_trans hi.frame.1 hj.frame.1
  obtain ⟨-, hport', hhost'⟩ := sameFixed_trans hj'.frame.1 hi'.frame.1
  refine ⟨t1, t2, hj', hi', eq_of_sameAt (fun q => ?units) rfl (hport'.trans hport.symm) (hhost'.trans hhost.symm)⟩
  case units =>
    have hunit : SameAt (some q) t2 s2 := by
      by_cases hqi : target i = some q
      · have hqj : target j ≠ some q := fun hqj => hdisjoint.ne q hqj hqi
        exact (hqi ▸ hiUnit).symm.trans (hj.sameAt_of_ne fun _ h => h ▸ hqj)
      · have ht : SameAt (some q) t2 t1 := (hi'.sameAt_of_ne fun _ h => h ▸ hqi).symm
        by_cases hqj : target j = some q
        · exact ht.trans (hqj ▸ hjUnit).symm
        · have hs1 : SameAt (some q) s s1 := hi.sameAt_of_ne fun _ h => h ▸ hqi
          have hs2 : SameAt (some q) s1 s2 := hj.sameAt_of_ne fun _ h => h ▸ hqj
          exact ht.trans ((hj'.sameAt_of_ne fun _ h => h ▸ hqj).symm.trans (hs1.trans hs2))
    exact (indistinct_sameAt _).setPhase .idle hunit

end Sys2Proof.Machine
end

section
/-!
SUPPORT. The sponge (spec/40_sponge.md): absorbing one block (R103), the words squeezed (R104, R113), the grid positions
of a round's four maps (R106 to R110), and HASH (R115).
-/

namespace Sys2Proof.Machine

/-! ## The offset (R103, R104) -/

theorem advance_of_last {r : Nat} {p : Sponge} (hlast : p.off.val + 1 = r) : advance r p = ⟨P800 p.s, 0⟩ :=
  if_pos hlast

theorem advance_of_inside {r : Nat} {p : Sponge} (hinside : p.off.val + 1 ≠ r) : advance r p = ⟨p.s, p.off + 1⟩ :=
  if_neg hinside

/-! ## Absorb (R103) -/

/-- The state with the words of `blk` XORed in from position `off` on. -/
def xorFrom (a : Lanes) (off : Nat) (blk : List Word) : Lanes :=
  Vector.ofFn fun i : Fin 25 => a[i] ^^^ if off ≤ i.val then blk.getD (i.val - off) 0 else 0

theorem getElem_xorFrom (a : Lanes) (off : Nat) (blk : List Word) {i : Nat} (hi : i < 25) :
    (xorFrom a off blk)[i] = a[i] ^^^ if off ≤ i then blk.getD (i - off) 0 else 0 := by
  simp [xorFrom]

/-- One word at the offset and the rest after it. -/
theorem xorFrom_cons (a : Lanes) (off : Fin 25) (w : Word) (blk : List Word) :
    xorFrom a off (w :: blk) = xorFrom (a.set off (a[off] ^^^ w)) (off + 1) blk := by
  refine Vector.ext fun i hi => ?_
  rw [getElem_xorFrom, getElem_xorFrom, Vector.getElem_set]
  rcases lt_trichotomy i off.val with hlt | rfl | hgt
  · rw [if_neg (by omega), if_neg (by omega), if_neg (by omega)]
  · rw [if_pos le_rfl, if_pos rfl, if_neg (by omega), Nat.sub_self, List.getD_cons_zero]
    exact BitVec.xor_zero.symm
  · obtain ⟨k, rfl⟩ := Nat.exists_eq_add_of_lt hgt
    rw [if_pos (by omega), if_neg (by omega), if_pos (by omega), show off.val + k + 1 - off.val = k + 1 by omega,
      show off.val + k + 1 - (off.val + 1) = k by omega, List.getD_cons_succ]

theorem xorFrom_nil (a : Lanes) (off : Nat) : xorFrom a off [] = a := by
  refine Vector.ext fun i hi => ?_
  simp [getElem_xorFrom]

/-- R103 from any offset: the rest of the block is XORed in, and the last word calls the permutation. -/
theorem foldl_absorbWord {r : Nat} (hr : r ≤ 25) (blk : List Word) (hne : blk ≠ []) (a : Lanes) (off : Fin 25)
    (hlen : off.val + blk.length = r) : blk.foldl (absorbWord r) ⟨a, off⟩ = ⟨P800 (xorFrom a off blk), 0⟩ := by
  induction blk generalizing a off with
  | nil => exact absurd rfl hne
  | cons w blk ih =>
    rw [List.length_cons] at hlen
    rw [List.foldl_cons, absorbWord, xorFrom_cons]
    cases blk with
    | nil =>
      rw [advance_of_last (by simpa using hlen), xorFrom_nil]
      rfl
    | cons v blk =>
      rw [List.length_cons] at hlen
      have hoff : (off + 1).val = off.val + 1 := Fin.val_add_one_of_lt' (by omega)
      rw [advance_of_inside (by simp only; omega), ih (List.cons_ne_nil v blk), hoff]
      rw [hoff, List.length_cons]
      omega

/-- Settles O19: the offset comes back to 0 with the last word of the block, and there alone the permutation runs. -/
theorem absorbOneBlock : Obligations.AbsorbOneBlock := by
  intro r blk a hpos hr hlen
  have hne : blk ≠ [] := List.ne_nil_of_length_pos (hlen ▸ hpos)
  rw [foldl_absorbWord hr blk hne a 0 (by simpa using hlen)]
  simp [xorFrom]

/-! ## Squeeze (R104) -/

theorem getElem?_squeeze {r m j : Nat} (hj : j < m) (p : Sponge) :
    (squeeze r m p)[j]? = some ((advance r)^[j] p).s[((advance r)^[j] p).off] := by
  induction m generalizing j p with
  | zero => omega
  | succ m ih =>
    cases j with
    | zero => rfl
    | succ j => exact ih (Nat.lt_of_succ_lt_succ hj) (advance r p)

/-- After `j` words from offset 0 the permutation has run once for each full block. -/
theorem iterate_advance {r : Nat} (hpos : 1 ≤ r) (hr : r ≤ 25) (a : Lanes) (j : Nat) :
    ((advance r)^[j] ⟨a, 0⟩).s = P800^[j / r] a ∧ ((advance r)^[j] ⟨a, 0⟩).off.val = j % r := by
  induction j with
  | zero => simp
  | succ j ih =>
    obtain ⟨hs, hoff⟩ := ih
    have hlt : j % r < r := Nat.mod_lt j hpos
    have hdiv : (j + 1) / r = j / r + (j % r + 1) / r := by
      rw [← Nat.mul_add_div hpos, ← Nat.add_assoc, Nat.div_add_mod]
    rw [Function.iterate_succ_apply', hdiv, ← Nat.mod_add_mod j r 1]
    by_cases hlast : j % r + 1 = r
    · rw [advance_of_last (hoff ▸ hlast), hs, hlast, Nat.div_self hpos, Nat.mod_self, Function.iterate_succ_apply']
      exact ⟨rfl, rfl⟩
    · have hinside : j % r + 1 < r := by omega
      rw [advance_of_inside (hoff ▸ hlast), Nat.div_eq_of_lt hinside, Nat.mod_eq_of_lt hinside]
      exact ⟨hs, (Fin.val_add_one_of_lt' (by omega)).trans (congrArg (· + 1) hoff)⟩

/-- Settles O20: output word `j` is read after `j` advances of the offset. -/
theorem squeezedWord : Obligations.SqueezedWord := by
  intro a r m j hpos hr hj
  obtain ⟨hs, hoff⟩ := iterate_advance hpos hr a j
  have hlt : j % r < 25 := (Nat.mod_lt j hpos).trans_le hr
  rw [getElem?_squeeze hj, hs, Vector.getElem?_eq_getElem hlt]
  simp [hoff]

theorem squeeze_eq_take {r m m' : Nat} (hle : m ≤ m') (p : Sponge) : squeeze r m p = (squeeze r m' p).take m := by
  induction m generalizing m' p with
  | zero => rfl
  | succ m ih =>
    obtain ⟨m', rfl⟩ : ∃ k, m' = k + 1 := ⟨m' - 1, by omega⟩
    rw [squeeze, squeeze, List.take_succ_cons, ← ih (Nat.le_of_succ_le_succ hle)]

/-- Settles O21: the squeeze makes its words one after another. -/
theorem shorterOutputBeginsLonger : Obligations.ShorterOutputBeginsLonger := fun _ _ _ _ hle =>
  squeeze_eq_take hle _

/-! ## The maps of a round (R106 to R110) -/

/-- R108 sends (x, y) to (y, 2x + 3y): the source of that position is (x, y) again. -/
theorem rhopiSource_laneIndex : ∀ x y : Fin 5, rhopiSource (laneIndex y (2 * x + 3 * y)) = laneIndex x y := by decide

theorem getElem_rhopi (a : Lanes) (j : Fin 25) : (rhopi a)[j] = rotl32 a[rhopiSource j] rotAmounts[rhopiSource j] := by
  simp [rhopi]

/-- Settles O22: rho and pi read the position that R108 sends to theirs. -/
theorem rhoPiMovesWords : Obligations.RhoPiMovesWords := by
  intro a x y
  rw [laneAt, getElem_rhopi]
  simp only [rhopiSource_laneIndex, laneAt]

theorem laneIndex_mod (x y : Fin 5) : (laneIndex x y).val % 5 = x.val := by
  simp only [laneIndex]; omega

theorem laneIndex_right : ∀ x d y : Fin 5,
    ((laneIndex x y).val % 5 + d.val) % 5 + 5 * ((laneIndex x y).val / 5) = (laneIndex (x + d) y).val := by decide

theorem laneIndex_eq_zero_iff : ∀ x y : Fin 5, laneIndex x y = 0 ↔ x = 0 ∧ y = 0 := by decide

/-- R106. -/
theorem laneAt_theta (a : Lanes) (x y : Fin 5) :
    laneAt (theta a) x y = laneAt a x y ^^^ (columnParity a (x + 4) ^^^ rotl32 (columnParity a (x + 1)) 1) := by
  simp [theta, laneAt, laneIndex_mod]

/-- R109. -/
theorem laneAt_chi (a : Lanes) (x y : Fin 5) :
    laneAt (chi a) x y = laneAt a x y ^^^ (~~~ laneAt a (x + 1) y &&& laneAt a (x + 2) y) := by
  have hone := laneIndex_right x 1 y
  have htwo := laneIndex_right x 2 y
  simp only [chi, laneAt, Fin.getElem_fin, Vector.getElem_ofFn, ← hone, ← htwo]
  rfl

/-- R110. -/
theorem laneAt_iota (a : Lanes) (rc : Word) (x y : Fin 5) :
    laneAt (iota a rc) x y = if x = 0 ∧ y = 0 then laneAt a 0 0 ^^^ rc else laneAt a x y := by
  simp only [← laneIndex_eq_zero_iff]
  exact getElem_set_fin a 0 (laneIndex x y) _

/-- Settles O23: the column parities are those of theta, and each map is read at one grid position. -/
theorem thetaChiIotaWords : Obligations.ThetaChiIotaWords := by
  intro a rc par x y hpar
  rw [hpar, hpar]
  exact ⟨laneAt_theta a x y, laneAt_chi a x y, laneAt_iota a rc x y⟩

/-! ## HASH (R115) -/

/-- Settles O24: the rate check passes, and the squeeze has as many words as asked for. -/
theorem hashCompletes : Obligations.HashCompletes := by
  intro rate m input s hpos hle
  refine ⟨?_, spongeHash_length ..⟩
  have hlegal : legalRate rate = true := by simp [legalRate, hpos, hle]
  exact (if_pos hlegal : execHash rate m input s = _)

end Sys2Proof.Machine
end

section
/-!
SUPPORT. The generators: SEED.SC (spec/42_stream_cipher.md R171), the counter's period (R179), quarter-rounds on
disjoint positions (R173), NEXT.TR (spec/43_tempered.md R206) and RDBL (spec/41_base_contract.md R143).
-/

namespace Sys2Proof.Machine

/-! ## SEED.SC (R171) -/

theorem seedUnit_sc_eq_set {i : Nat} {s : State} {g : Scg} (hg : s.scg[i]? = some g) (w : List Word) :
    s.seedUnit .sc i w =
      s.setScg (s.scg.set i (initStateSc (s.cfg.roundsOf i) g (seedVector w seedWordsSc))) := by
  rw [State.seedUnit, List.modify_eq_set_getElem?, hg]
  rfl

/-- R171: constants kept, ten seed words, two zeros. -/
theorem getElem_scSeedCore (core : Block) (v : Vector Word 10) (k : Fin 16) :
    (scSeedCore core v)[k] = if k.val < 4 then core[k] else if h : k.val < 14 then v[k.val - 4] else 0 := by
  simp [scSeedCore]

/-- Settles O26: the unit check passes, and the unit of the bank becomes InitState_SC of the seed vector. -/
theorem seedScCompletes : Obligations.SeedScCompletes := by
  intro inst w s g hg
  have hlt : inst.toNat < s.num .sc := (List.getElem?_eq_some_iff.mp hg).1
  refine ⟨initStateSc (s.cfg.roundsOf inst.toNat) g (seedVector w 10), ?outcome, fun k => ?words, rfl, rfl, rfl⟩
  case outcome =>
    rw [← seedUnit_sc_eq_set hg]
    exact seedCommand_of_lt hlt w
  case words =>
    refine (getElem_scSeedCore g.core (seedVector w 10) k).trans ?_
    split_ifs with hconst hseed
    · rfl
    · exact getElem_seedVector w (by omega)
    · rfl

/-! ## The counter's period (R179) -/

section
variable {is : List (Fin 16)} {core core' : Block}

/-- The number the limbs hold tells every limb. -/
theorem getElem_eq_of_counterValue_eq (h : counterValue is core = counterValue is core') {k : Fin 16} (hk : k ∈ is) :
    core[k] = core'[k] := by
  induction is with
  | nil => cases hk
  | cons i is ih =>
    rw [counterValue, counterValue] at h
    have hlimb : core[i].toNat < 2 ^ 32 := core[i].isLt
    have hlimb' : core'[i].toNat < 2 ^ 32 := core'[i].isLt
    obtain rfl | hk := List.mem_cons.mp hk
    · exact BitVec.eq_of_toNat_eq (by omega)
    · exact ih (by omega) hk

theorem getElem_iterate_incrementLimbs {k : Fin 16} (hk : k ∉ is) (n : Nat) (core : Block) :
    ((incrementLimbs is)^[n] core)[k] = core[k] := by
  induction n with
  | zero => rfl
  | succ n ih => rw [Function.iterate_succ_apply', getElem_incrementLimbs_of_notMem hk, ih]

theorem counterValue_iterate_incrementLimbs (hnodup : is.Nodup) (n : Nat) (core : Block) :
    counterValue is ((incrementLimbs is)^[n] core) = (counterValue is core + n) % 2 ^ (32 * is.length) := by
  induction n with
  | zero => exact (Nat.mod_eq_of_lt (counterValue_lt is core)).symm
  | succ n ih =>
    rw [Function.iterate_succ_apply', counterValue_incrementLimbs hnodup, ih, Nat.mod_add_mod, Nat.add_assoc]

/-- `n` increments bring the limbs back exactly when they bring their number back. -/
theorem iterate_incrementLimbs_eq_iff (hnodup : is.Nodup) (n : Nat) (core : Block) :
    (incrementLimbs is)^[n] core = core ↔ n % 2 ^ (32 * is.length) = 0 := by
  have hvalue := counterValue_iterate_incrementLimbs hnodup n core
  have hfits := counterValue_lt is core
  constructor
  · intro h
    have hmod : counterValue is core + 0 ≡ counterValue is core + n [MOD 2 ^ (32 * is.length)] := by
      rw [Nat.ModEq, Nat.add_zero, Nat.mod_eq_of_lt hfits, ← hvalue, h]
    exact (hmod.add_left_cancel' _).symm
  · intro hn
    have hback : counterValue is ((incrementLimbs is)^[n] core) = counterValue is core := by
      rw [hvalue, Nat.add_mod, hn, Nat.add_zero, Nat.mod_mod, Nat.mod_eq_of_lt hfits]
    refine Vector.ext fun k hk => ?_
    by_cases hlimb : (⟨k, hk⟩ : Fin 16) ∈ is
    · exact getElem_eq_of_counterValue_eq hback hlimb
    · exact getElem_iterate_incrementLimbs hlimb n core

end

theorem iterate_scIncrement_eq_iff (top : CounterTop) {bits : Nat} (hbits : 32 * (counterLimbs top).length = bits)
    (n : Nat) (core : Block) : (scIncrement top)^[n] core = core ↔ n % 2 ^ bits = 0 :=
  hbits ▸ iterate_incrementLimbs_eq_iff (nodup_counterLimbs top) n core

/-- Settles O32: the period of the four and of the twelve limbs. -/
theorem counterPeriod : Obligations.CounterPeriod := fun core n =>
  ⟨iterate_scIncrement_eq_iff .pos12 (bits := 128) rfl n core,
    iterate_scIncrement_eq_iff .pos4 (bits := 384) rfl n core⟩

/-! ## Quarter-rounds (R172, R173) -/

section
variable {a b c d k : Fin 16} {x y : Block}

theorem getElem_quarterRound (a b c d : Fin 16) (x : Block) (k : Fin 16) :
    (quarterRound a b c d x)[k] =
      if k = d then (quarterRoundWords x[a] x[b] x[c] x[d]).2.2.2
      else if k = c then (quarterRoundWords x[a] x[b] x[c] x[d]).2.2.1
      else if k = b then (quarterRoundWords x[a] x[b] x[c] x[d]).2.1
      else if k = a then (quarterRoundWords x[a] x[b] x[c] x[d]).1 else x[k] := by
  simp only [quarterRound, getElem_set_fin]

/-- A quarter-round writes its four positions only. -/
theorem getElem_quarterRound_of_notMem (hk : k ∉ [a, b, c, d]) : (quarterRound a b c d x)[k] = x[k] := by
  simp only [List.mem_cons, List.not_mem_nil, or_false, not_or] at hk
  obtain ⟨ha, hb, hc, hd⟩ := hk
  rw [getElem_quarterRound, if_neg hd, if_neg hc, if_neg hb, if_neg ha]

/-- What a quarter-round leaves at its positions depends on the words there alone. -/
theorem getElem_quarterRound_congr (hxy : ∀ p ∈ [a, b, c, d], x[p] = y[p]) (hk : k ∈ [a, b, c, d]) :
    (quarterRound a b c d x)[k] = (quarterRound a b c d y)[k] := by
  rw [getElem_quarterRound, getElem_quarterRound, hxy a (by simp), hxy b (by simp), hxy c (by simp), hxy d (by simp),
    hxy k hk]

variable {a' b' c' d' : Fin 16}

/-- At the positions of one quarter-round, another one on disjoint positions makes no difference before or after. -/
theorem getElem_quarterRound_comm_of_mem (hdisjoint : List.Disjoint [a, b, c, d] [a', b', c', d'])
    (hk : k ∈ [a, b, c, d]) :
    (quarterRound a b c d (quarterRound a' b' c' d' x))[k] =
      (quarterRound a' b' c' d' (quarterRound a b c d x))[k] := by
  rw [getElem_quarterRound_of_notMem (hdisjoint hk)]
  exact getElem_quarterRound_congr (fun p hp => getElem_quarterRound_of_notMem (hdisjoint hp)) hk

end

/-- Settles O33: at each position at most one of the two writes. -/
theorem disjointQuarterRoundsCommute : Obligations.DisjointQuarterRoundsCommute := by
  intro a b c d a' b' c' d' x hnodup
  have hdisjoint : List.Disjoint [a, b, c, d] [a', b', c', d'] :=
    List.disjoint_of_nodup_append (l₁ := [a, b, c, d]) hnodup
  refine Vector.ext fun n hn => ?_
  show (quarterRound a b c d (quarterRound a' b' c' d' x))[(⟨n, hn⟩ : Fin 16)] =
    (quarterRound a' b' c' d' (quarterRound a b c d x))[(⟨n, hn⟩ : Fin 16)]
  by_cases hfirst : (⟨n, hn⟩ : Fin 16) ∈ [a, b, c, d]
  · exact getElem_quarterRound_comm_of_mem hdisjoint hfirst
  · by_cases hlast : (⟨n, hn⟩ : Fin 16) ∈ [a', b', c', d']
    · exact (getElem_quarterRound_comm_of_mem hdisjoint.symm hlast).symm
    · rw [getElem_quarterRound_of_notMem hfirst, getElem_quarterRound_of_notMem hlast,
        getElem_quarterRound_of_notMem hlast, getElem_quarterRound_of_notMem hfirst]

/-! ## NEXT.TR (R206) -/

/-- The word of R205 that a TRG unit makes next. -/
def trNextWord (g : Trg) : Word := trTemper (trZ0 g.v g.idx) (trZ1 g.v g.idx) (trZ2 g.v g.idx)

theorem getElem_produceTr_v (g : Trg) (k : Fin 32) :
    (produceTr g).2.v[k] =
      if k = g.idx + 31 then trNextWord g else if k = g.idx then trZ1 g.v g.idx ^^^ trZ2 g.v g.idx else g.v[k] := by
  refine (getElem_set_fin _ (g.idx + 31) k _).trans ?_
  rw [getElem_set_fin]
  rfl

/-- R206: the word returned is the one written at the new index. -/
theorem produceTr_fst (g : Trg) : (produceTr g).1 = trNextWord g :=
  (getElem_produceTr_v g (g.idx + 31)).trans (if_pos rfl)

theorem exec_nextTr_of_seeded {inst : BitVec 8} {s : State} {g : Trg} (hg : s.trg[inst.toNat]? = some g)
    (hseeded : g.seeded = true) :
    exec (.nextTr inst) s =
      .next ((s.setTrg (s.trg.set inst.toNat (produceTr g).2)).setPhase (.done [0x00, trNextWord g])) :=
  nextCommand_of_produce (k := .tr) (by simp [State.isSeeded, hg, hseeded])
    (produce_tr_eq_some_iff.mpr ⟨g, hg, (produceTr_fst g).symm, rfl⟩)

/-- Settles O34: the checks pass, and Produce_TR makes the recurrence's word, its two writes and the index step. -/
theorem nextTrCompletes : Obligations.NextTrCompletes := fun _ _ g hg hseeded =>
  ⟨trNextWord g, (produceTr g).2, _, _, _, _, _, _, rfl, rfl, rfl, rfl, rfl, rfl, rfl, exec_nextTr_of_seeded hg hseeded,
    Fin.val_add g.idx 31, hseeded, getElem_produceTr_v g⟩

/-! ## RDBL (R143 to R145) -/

/-- Settles O36: the checks pass, and the response is made from the one word drawn. -/
theorem rdblCompletes : Obligations.RdblCompletes := by
  intro k inst s hseeded
  obtain ⟨w, t, hprod⟩ := isSeeded_produce hseeded
  refine ⟨w, t, hprod, ?_⟩
  rw [exec_rdblInstr, rdblCommand, requireUnit_of_lt (isSeeded_lt hseeded), requireSeeded_of hseeded,
    draw_of_produce hprod]
  rfl

end Sys2Proof.Machine
end

section
/-!
SUPPORT. Doubles and ranged integers (spec/41_base_contract.md): the value of the binary64 encoding (R138, R139), the
arithmetic of an accepted word (R142, R153), and the draw loop of RRANGE and RINDEX (R141, R149, R285).
-/

namespace Sys2Proof.Machine

/-! ## Binary64 (R138, R139) -/

/-- R139: the leading bit of a word, moved up to bit 52. -/
theorem mantissa_bounds {v : Nat} (hv : v ≠ 0) (hlt : v < 2 ^ 32) :
    v.log2 < 32 ∧ 2 ^ 52 ≤ v * 2 ^ (52 - v.log2) ∧ v * 2 ^ (52 - v.log2) < 2 ^ 53 := by
  have hp : v.log2 < 32 := (Nat.log2_lt hv).mpr hlt
  have hsum : v.log2 + (52 - v.log2) = 52 := by omega
  have hsum' : v.log2 + 1 + (52 - v.log2) = 53 := by omega
  refine ⟨hp, ?_, ?_⟩
  · rw [← hsum, Nat.pow_add, Nat.add_sub_cancel_left]
    exact Nat.mul_le_mul_right _ (Nat.log2_self_le hv)
  · rw [← hsum', Nat.pow_add]
    exact Nat.mul_lt_mul_of_pos_right Nat.lt_log2_self (Nat.two_pow_pos _)

/-- R139: sign 0, exponent field `log2 v + 991`, and the mantissa without its leading bit. -/
theorem binary64_fields {v : Nat} (hv : v ≠ 0) (hlt : v < 2 ^ 32) :
    (binary64 v).toNat < 2 ^ 63 ∧ (binary64 v).toNat / 2 ^ 52 % 2 ^ 11 = v.log2 + 991 ∧
      (binary64 v).toNat % 2 ^ 52 + 2 ^ 52 = v * 2 ^ (52 - v.log2) := by
  obtain ⟨hp, hlo, hhi⟩ := mantissa_bounds hv hlt
  rw [binary64, if_neg hv, BitVec.toNat_ofNat]
  generalize v * 2 ^ (52 - v.log2) = m at hlo hhi ⊢
  generalize v.log2 = p at hp ⊢
  omega

/-- R138: the fields stand for `v * 2^-32`. -/
theorem binary64_value {v p : Nat} (hp : p ≤ 52) {f : Nat} (hf : f + 2 ^ 52 = v * 2 ^ (52 - p)) :
    (1 + (f : ℚ) / 2 ^ 52) * (2 : ℚ) ^ (((p + 991 : ℕ) : ℤ) - 1023) = (v : ℚ) * (2 : ℚ) ^ (-32 : ℤ) := by
  have hcast : (f : ℚ) + 2 ^ 52 = v * 2 ^ (52 - p) := by exact_mod_cast hf
  have hscale : (1 + (f : ℚ) / 2 ^ 52) = v * 2 ^ (52 - p) / 2 ^ 52 := by rw [← hcast]; ring
  have hexp : ((p + 991 : ℕ) : ℤ) - 1023 = (p : ℤ) + (-32) := by push_cast; ring
  have hpow : (2 : ℚ) ^ (52 - p) * 2 ^ p = 2 ^ 52 := by rw [← pow_add, Nat.sub_add_cancel hp]
  rw [hscale, hexp, zpow_add₀ two_ne_zero, zpow_natCast, ← hpow]
  field_simp

/-- Settles O37: the fields are read off the encoding, and their value is computed in the rationals. -/
theorem doubleIsExact : Obligations.DoubleIsExact := by
  rintro w _ _ _ rfl rfl rfl
  by_cases hw : w = 0
  · subst hw
    exact ⟨rfl, fun _ => rfl, absurd rfl⟩
  · have hv : w.toNat ≠ 0 := fun h => hw (BitVec.eq_of_toNat_eq h)
    obtain ⟨hsign, hexp, hmantissa⟩ := binary64_fields hv w.isLt
    obtain ⟨hp, -⟩ := mantissa_bounds hv w.isLt
    refine ⟨?_, fun h => absurd h hw, fun _ => ?_⟩
    · rw [← BitVec.testBit_toNat]
      exact Nat.testBit_lt_two_pow hsign
    · rw [hexp]
      exact ⟨by omega, by omega, binary64_value (by omega) hmantissa⟩

/-! ## The offset of an accepted word (R142, R153) -/

section
variable {n : Nat}

theorem rangeBound_div (hn : 1 ≤ n) : rangeBound n / n = 2 ^ 32 / n := by
  rw [rangeBound_eq_div_mul, Nat.mul_div_cancel _ hn]

/-- R142: the factor `n` cancels. -/
theorem mul_div_rangeBound (hn : 1 ≤ n) (v : Nat) : n * v / rangeBound n = v / (2 ^ 32 / n) := by
  rw [rangeBound_eq_div_mul, Nat.mul_comm (2 ^ 32 / n), Nat.mul_div_mul_left _ _ hn]

theorem offset_lt {v : Nat} (hn : 1 ≤ n) (hv : v < rangeBound n) : n * v / rangeBound n < n := by
  refine Nat.div_lt_of_lt_mul ?_
  rw [Nat.mul_comm]
  exact Nat.mul_lt_mul_of_pos_right hv hn

/-- Settles O39: `n` cancels from the bound, and both factors of the product are at most 2^32. -/
theorem offsetIsADivision : Obligations.OffsetIsADivision := by
  intro n w hn hle _
  refine ⟨rangeBound_div hn, mul_div_rangeBound hn _, ?_⟩
  calc n * w.toNat ≤ 2 ^ 32 * w.toNat := Nat.mul_le_mul_right _ hle
    _ < 2 ^ 64 := by omega

/-- R153: the words with offset `j` are the `k` words from `j * k` on. -/
theorem filter_offset_eq_Ico (hn : 1 ≤ n) (hle : n ≤ 2 ^ 32) {j : Nat} (hj : j < n) :
    ((Finset.range (2 ^ 32)).filter fun v => v < rangeBound n ∧ n * v / rangeBound n = j) =
      Finset.Ico (j * (2 ^ 32 / n)) (j * (2 ^ 32 / n) + 2 ^ 32 / n) := by
  have hk : 0 < 2 ^ 32 / n := Nat.div_pos hle hn
  have hend : j * (2 ^ 32 / n) + 2 ^ 32 / n ≤ rangeBound n := by
    rw [rangeBound_eq_div_mul, Nat.mul_comm (2 ^ 32 / n), ← Nat.succ_mul]
    exact Nat.mul_le_mul_right _ hj
  have hbound := rangeBound_le n
  ext v
  rw [Finset.mem_filter, Finset.mem_range, Finset.mem_Ico, mul_div_rangeBound hn, Nat.div_eq_iff hk]
  omega

/-- Settles O40: the offset is below `n`, and the words of one offset are an interval of `k` words. -/
theorem rangeIsExactlyUniform : Obligations.RangeIsExactlyUniform := by
  intro n lower hn hle
  refine ⟨fun w hw => ?_, fun j hj => ?_⟩
  · have hoffset := offset_lt hn hw
    rw [rangeResult]
    generalize n * u32 w / rangeBound n = offset at hoffset ⊢
    omega
  · rw [filter_offset_eq_Ico hn hle hj, Nat.card_Ico, Nat.add_sub_cancel_left]

end

/-! ## The draw loop (R141, R285) -/

section
variable {k : Kind} {inst : BitVec 8} {s t : State} {w : Word} {d : DrawLoop}

theorem drawStep_of_accepted (hprod : s.produce d.kind d.inst = some (w, t)) (hw : w.toNat < d.bound) :
    drawStep d s = .next (t.setPhase (.done (0x00 :: rangeWords (rangeResult d.lower d.n d.bound w)))) := by
  rw [drawStep, draw_of_produce hprod, if_pos hw]
  rfl

theorem drawStep_of_rejected (hprod : s.produce d.kind d.inst = some (w, t)) (hw : d.bound ≤ w.toNat) :
    drawStep d s = .next (t.setPhase (.drawing d)) := by
  rw [drawStep, draw_of_produce hprod, if_neg (Nat.not_lt.mpr hw)]

/-- The loop of a range of `n` values from `lower` on. -/
def loopFor (k : Kind) (inst : BitVec 8) (lower : Int) (n : Nat) : DrawLoop :=
  ⟨k, inst.toNat, lower, n, rangeBound n⟩

/-- R141: on a seeded unit, a range of 1 to 2^32 values goes into its loop. -/
theorem rangeCommand_of_allowed (hseeded : s.isSeeded k inst.toNat = true) {lower upper : Int} (hle : lower ≤ upper)
    {n : Nat} (hn : (n : Int) = upper - lower + 1) (hwide : n ≤ 2 ^ 32) :
    rangeCommand k inst lower upper s = drawStep (loopFor k inst lower n) s := by
  have hsize : rangeSize lower upper = n := hn.symm
  rw [rangeCommand, if_neg (by omega), if_neg (by omega), requireSeeded_of hseeded, drawLoop, hsize, Int.toNat_natCast,
    loopFor]

theorem exec_rrangeInstr_of_allowed (hseeded : s.isSeeded k inst.toNat = true) {lower upper : BitVec 64}
    (hle : lower.toInt ≤ upper.toInt) {n : Nat} (hn : (n : Int) = upper.toInt - lower.toInt + 1) (hwide : n ≤ 2 ^ 32) :
    exec (rrangeInstr inst lower upper k) s = drawStep (loopFor k inst lower.toInt n) s := by
  rw [exec_rrangeInstr, rrangeCommand, requireUnit_of_lt (isSeeded_lt hseeded)]
  exact rangeCommand_of_allowed hseeded hle hn hwide

theorem exec_rindexInstr_of_allowed (hseeded : s.isSeeded k inst.toNat = true) {count : BitVec 64} {n : Nat}
    (hcount : count.toInt = n) (hn : 1 ≤ n) (hwide : n ≤ 2 ^ 32) :
    exec (rindexInstr inst count k) s = drawStep (loopFor k inst 0 n) s := by
  rw [exec_rindexInstr, rindexCommand, requireUnit_of_lt (isSeeded_lt hseeded), operandInt, hcount, if_neg (by omega)]
  exact rangeCommand_of_allowed hseeded (by omega) (by omega) hwide

end

/-- Settles O41: the checks pass, and the loop ends with its first word. -/
theorem rrangeCompletes : Obligations.RrangeCompletes := by
  rintro k inst lower upper s t w n _ hseeded hle hn hwide hprod hw rfl
  rw [exec_rrangeInstr_of_allowed hseeded hle hn hwide]
  exact drawStep_of_accepted hprod hw

/-- Settles O44: the checks pass, and the loop goes on after its first word. -/
theorem rejectedWordStaysInTheLoop : Obligations.RejectedWordStaysInTheLoop := by
  intro k inst lower upper s t w n hseeded hle hn hwide hprod hw
  rw [exec_rrangeInstr_of_allowed hseeded hle hn hwide]
  exact drawStep_of_rejected hprod hw

/-- R81: a result that fits one word has a zero high word. -/
theorem rangeWords_of_lt {v : Nat} (hv : v < 2 ^ 32) : rangeWords v = [BitVec.ofNat 32 v, 0] := by
  rw [rangeWords, Int.ediv_eq_zero_of_lt (by omega) (by omega)]
  rfl

/-- Settles O42: the checks pass, the loop ends with its first word, and its offset fits one word. -/
theorem rindexCompletes : Obligations.RindexCompletes := by
  rintro k inst count s t w n _ hseeded hcount hn hwide hprod hw rfl
  have hlt := offset_lt hn hw
  refine ⟨?_, hlt⟩
  rw [exec_rindexInstr_of_allowed hseeded hcount hn hwide, drawStep_of_accepted (d := loopFor k inst 0 n) hprod hw,
    loopFor, rangeResult, Int.zero_add, rangeWords_of_lt (hlt.trans_le hwide)]
  rfl

/-- Settles O43: no count wraps when 1 is taken off, not even 0, which gives the empty range from 0 to -1. -/
theorem rindexDelegatesToRrange : Obligations.RindexDelegatesToRrange := by
  intro k inst count s hcount
  have hpred : (count - 1).toInt = count.toInt - 1 := by
    have hhigh := count.toInt_lt
    rw [BitVec.toInt_sub]
    exact Int.bmod_eq_of_le (by simp; omega) (by simp; omega)
  rw [exec_rindexInstr, exec_rrangeInstr, rindexCommand, rrangeCommand, operandInt, operandInt, operandInt, hpred,
    if_neg (by omega)]
  rfl

/-! ## The loop to its end -/

section
variable {k : Kind} {i : Nat} {s t : State} {w : Word}

theorem afterDraws_succ (hprod : s.produce k i = some (w, t)) (n : Nat) :
    s.afterDraws k i (n + 1) = t.afterDraws k i n := by
  rw [State.afterDraws, hprod]
  rfl

theorem drawnWord_zero_eq_some (h : s.drawnWord k i 0 = some w) : ∃ t, s.produce k i = some (w, t) := by
  obtain ⟨⟨_, t⟩, hprod, rfl⟩ := Option.map_eq_some_iff.mp h
  exact ⟨t, hprod⟩

theorem drawnWord_zero (hprod : s.produce k i = some (w, t)) : s.drawnWord k i 0 = some w := by
  simp [State.drawnWord, State.afterDraws, hprod]

theorem drawnWord_succ (hprod : s.produce k i = some (w, t)) (n : Nat) :
    s.drawnWord k i (n + 1) = t.drawnWord k i n := by
  rw [State.drawnWord, afterDraws_succ hprod, State.drawnWord]

/-- A later word is drawn only after the first one. -/
theorem exists_produce_of_drawnWord {n : Nat} (h : s.drawnWord k i n = some w) :
    ∃ v u, s.produce k i = some (v, u) := by
  cases n with
  | zero =>
    obtain ⟨t, hprod⟩ := drawnWord_zero_eq_some h
    exact ⟨w, t, hprod⟩
  | succ n =>
    obtain ⟨t, ht, -⟩ := Option.bind_eq_some_iff.mp h
    obtain ⟨⟨v, u⟩, hprod, -⟩ := Option.bind_eq_some_iff.mp ht
    exact ⟨v, u, hprod⟩

end

/-- A micro-step does not read the phase. -/
theorem drawStep_setPhase (d : DrawLoop) (p : Phase) (s : State) : drawStep d (s.setPhase p) = drawStep d s := by
  rw [drawStep, drawStep, State.draw, State.draw, produce_setPhase]
  cases s.produce d.kind d.inst with
  | none => rfl
  | some q => simp

/-- R141: after `j` rejected words and an accepted one the loop has ended with that word's result. -/
theorem drawStep_finish {d : DrawLoop} {s : State} {j : Nat} {w : Word}
    (hrejected : ∀ m, m < j → ∀ v, s.drawnWord d.kind d.inst m = some v → d.bound ≤ v.toNat)
    (hdrawn : s.drawnWord d.kind d.inst j = some w) (haccepted : w.toNat < d.bound) :
    ∃ t u, s.afterDraws d.kind d.inst (j + 1) = some t ∧ drawStep d s = .next u ∧
      finish j u = .next (t.setPhase (.done (0x00 :: rangeWords (rangeResult d.lower d.n d.bound w)))) := by
  induction j generalizing s with
  | zero =>
    obtain ⟨t, hprod⟩ := drawnWord_zero_eq_some hdrawn
    exact ⟨t, _, afterDraws_succ hprod 0, drawStep_of_accepted hprod haccepted, rfl⟩
  | succ j ih =>
    obtain ⟨v, s', hprod⟩ := exists_produce_of_drawnWord hdrawn
    have hfirst : d.bound ≤ v.toNat := hrejected 0 j.succ_pos v (drawnWord_zero hprod)
    have hrest : ∀ m, m < j → ∀ v, s'.drawnWord d.kind d.inst m = some v → d.bound ≤ v.toNat := fun m hm v hv =>
      hrejected (m + 1) (Nat.succ_lt_succ hm) v ((drawnWord_succ hprod m).trans hv)
    obtain ⟨t, u, hafter, hstep, hfin⟩ := ih hrest ((drawnWord_succ hprod j).symm.trans hdrawn)
    refine ⟨t, _, (afterDraws_succ hprod _).trans hafter, drawStep_of_rejected hprod hfirst, ?_⟩
    rw [finish_succ_of_drawing (setPhase_phase _ s') ((drawStep_setPhase d _ s').trans hstep), hfin]

/-- Settles O45: the checks pass, and `drawStep_finish` runs the loop. -/
theorem drawLoopEndsAtTheFirstAcceptedWord : Obligations.DrawLoopEndsAtTheFirstAcceptedWord := by
  intro k inst lower upper s n j w hseeded hle hn hwide hrejected hdrawn haccepted
  obtain ⟨t, u, hafter, hstep, hfin⟩ := drawStep_finish (d := loopFor k inst lower.toInt n) hrejected hdrawn haccepted
  exact ⟨t, hafter, j, u, (exec_rrangeInstr_of_allowed hseeded hle hn hwide).trans hstep, hfin, rfl⟩

end Sys2Proof.Machine
end
